-- ==== Sys2Proof/Word.lean ====
section
/-! DEFINITION. The widths of the quantities of the block (`00_scope.md` R10, `10_state.md` R22, `30_encoding.md` R80). -/

namespace Sys2Proof

/-- A byte: every bus-controller register and every quantity moved over the bus (`00_scope.md` R10). -/
abbrev Byte := BitVec 8

/-- A command word, format CMD, 19 bits (`30_encoding.md` R81). It is one value and has no byte order (`20_memory.md` R55). -/
abbrev CmdWord := BitVec 19

/-- A phase code, format PHASE, 2 bits (`30_encoding.md` R88). -/
abbrev PhaseCode := BitVec 2

/-- The retry counter's 6 bits (`10_state.md` R22). -/
abbrev Counter := BitVec 6

end Sys2Proof
end

