-- ==== Sys2Proof/Config.lean ====
section
/-! DEFINITION. The constants of the block that the document fixes or the spec decides (`00_scope.md` section 4), and the
one open parameter that no rule reads. The tables taken from general knowledge (patterns, status numbers) and
`ADDR_ACK_STRICT` stand in Machine/Operands.lean. -/

namespace Sys2Proof.Config

/-- `MAX_ATTEMPTS` (`00_scope.md` R9): fixed by the document. -/
def maxAttempts : Nat := 50

/-- `STATUS_MASK` (`00_scope.md` R10): the low three bits of a raw status are dropped. -/
def statusMask : Byte := 0xF8#8

/-- `RESULT_OK`, signed 0 (`30_encoding.md` R95). -/
def resultOk : Byte := 0x00#8

/-- `RESULT_FAIL`, signed -1 (`30_encoding.md` R95). -/
def resultFail : Byte := 0xFF#8

/-- `BUS_CLOCK_DIVISOR` (`00_scope.md` R11, decision D25): OPEN, its value is not given and no rule reads it (log 22). -/
opaque busClockDivisor : Nat

/-! Constants of the two peripherals (`20_memory.md` R64). The CORE only carries them. -/

/-- I/O expander device select pattern. -/
def expId : Byte := 0x40#8
/-- I/O expander sub-address bits. -/
def expSub : Byte := 0x02#8
/-- Expander direction register, offset. -/
def expIodir : Byte := 0x00#8
/-- Expander GPIO register, offset. -/
def expGpio : Byte := 0x09#8
/-- Temperature sensor device identifier. -/
def tsId : Byte := 0x90#8
/-- Temperature sensor sub-address bits (decision D22). -/
def tsSub : Byte := 0x00#8
/-- The command byte that starts a conversion. -/
def tsCmdConvert : Byte := 0xEE#8
/-- The temperature register. -/
def tsRegTemp : Byte := 0xAA#8

end Sys2Proof.Config
end

