-- ==== Sys2Proof/Syntax.lean ====
section
/-! DEFINITION. The instructions: one constructor per row of `spec/opcode_table.json`, and the enumerations the spec's
formats use: direction, phase, status condition, failure cause, bus-controller register. -/

namespace Sys2Proof

/-- Direction operand of BEGIN (`30_encoding.md` R94). -/
inductive Direction where
  | write
  | read
  deriving DecidableEq, Repr

/-- The Bus Phase (`30_encoding.md` R88). -/
inductive Phase where
  | start
  | dataNoack
  | dataAck
  | stop
  deriving DecidableEq, Repr

/-- The eight rows of the opcode table: four host commands of format CMD (`30_encoding.md` R82) and four phase
micro-operations of format PHASE (R88). -/
inductive Instr where
  /-- BEGIN `device_identifier, device_subaddress, direction` (`41_begin_and_retry.md` R130). -/
  | beginTransaction (id sub : Byte) (dir : Direction)
  /-- WRITE `value` (`42_byte_transfer_and_end.md` R150). -/
  | writeByte (value : Byte)
  /-- READ `request_ack`, true for ACK (`42_byte_transfer_and_end.md` R152, `30_encoding.md` R96). -/
  | readByte (requestAck : Bool)
  /-- END (`42_byte_transfer_and_end.md` R155). -/
  | endTransaction
  /-- PH_START (`40_bus_phase_controller.md` R111). -/
  | phStart
  /-- PH_DATA_NOACK (`40_bus_phase_controller.md` R112). -/
  | phDataNoack
  /-- PH_DATA_ACK (`40_bus_phase_controller.md` R113). -/
  | phDataAck
  /-- PH_STOP (`40_bus_phase_controller.md` R114). -/
  | phStop
  deriving DecidableEq, Repr

/-- The named status conditions (`30_encoding.md` R91). -/
inductive Cond where
  | startTx
  | rstartTx
  | slawAck
  | slawNack
  | dataTxAck
  | dataTxNack
  | arbLost
  | slarAck
  | slarNack
  | dataRxAck
  | dataRxNack
  /-- Any masked value that is none of the eleven named codes. -/
  | other (v : Byte)
  deriving DecidableEq, Repr

/-- Labels of failures (`60_exceptions.md` R202). The hardware does not hold them (R201). -/
inductive Cause where
  | budget
  | startSeq
  | addrSeq
  | dataWrite
  | dataRead
  | illegal
  deriving DecidableEq, Repr

/-- The classes of the error taxonomy (`60_exceptions.md` R200). -/
inductive ErrorClass where
  /-- (a) transient bus contention. -/
  | contention
  /-- (b) negative peer acknowledgment. -/
  | peerNack
  /-- (c) protocol sequence violation. -/
  | sequence
  deriving DecidableEq, Repr

/-- Which command a response answers (`30_encoding.md` R97, `60_exceptions.md` R205). -/
inductive CmdKind where
  | beginCmd
  | writeCmd
  | readCmd
  | endCmd
  | illegalCmd
  deriving DecidableEq, Repr

/-- The three locations of address space S1 (`20_memory.md` R51). A location outside this set does not exist. -/
inductive BcReg where
  | ctrl
  | status
  | data
  deriving DecidableEq, Repr

/-- An encoded instruction: a command word or a phase code (`30_encoding.md` R80). -/
inductive Code where
  | cmd (w : CmdWord)
  | phase (c : PhaseCode)
  deriving DecidableEq, Repr

end Sys2Proof
end

