-- ==== Sys2Proof/WellFormed.lean ====
section
/-! DEFINITION. What a well-formed instruction, command word and command list are. The operands of `Instr` are typed at
their exact widths and every operand combination is legal (`30_encoding.md` R83 to R86), so the checks are about words
and about who may present an instruction: the reserved bits of a command word (R87), the programs a model refuses
(`60_exceptions.md` R205, `93_implementation_defined.md` U7), and the phase micro-operations the host cannot present
(`30_encoding.md` R88). -/

namespace Sys2Proof

/-- Format CMD instructions: the ones the host can present. The phase code "is internal to the CORE and never appears on
the host interface" (`30_encoding.md` R88). -/
def Instr.isHostCommand : Instr → Bool
  | .beginTransaction _ _ _ => true
  | .writeByte _ => true
  | .readByte _ => true
  | .endTransaction => true
  | .phStart => false
  | .phDataNoack => false
  | .phDataAck => false
  | .phStop => false

/-- A row of `30_encoding.md` R82: a word `w` selects the row when `w & mask = match`. -/
structure CmdRow where
  mnemonic : String
  pattern : CmdWord
  mask : CmdWord
  deriving DecidableEq, Repr

/-- The table of `30_encoding.md` R82. -/
def cmdRows : List CmdRow :=
  [ { mnemonic := "BEGIN", pattern := 0x00000#19, mask := 0x60000#19 },
    { mnemonic := "WRITE", pattern := 0x20000#19, mask := 0x7FF00#19 },
    { mnemonic := "READ", pattern := 0x40000#19, mask := 0x6FFFF#19 },
    { mnemonic := "END", pattern := 0x60000#19, mask := 0x7FFFF#19 } ]

/-- `w & mask = match`. -/
def CmdRow.selects (r : CmdRow) (w : CmdWord) : Bool := w &&& r.mask == r.pattern

/-- A legal command word: one that matches a row of R82 (`30_encoding.md` R87). -/
def legalWord (w : CmdWord) : Bool := cmdRows.any fun r => r.selects w

/-- A legal program: no word of it is illegal. A model refuses programs that contain an illegal word
(`60_exceptions.md` R205, U7): no claim is made of such a program (log 13). -/
def legalProgram (ws : List CmdWord) : Bool := ws.all legalWord

end Sys2Proof
end

