-- ==== Sys2Proof/Decode.lean ====
section
/-! DEFINITION. The decoder, total on every code and rejecting by name, and the encoder, both written from the tables of
`30_encoding.md` (R81 to R88, R94, R96, R98, R100). -/

namespace Sys2Proof

/-- Why a command word is illegal (`30_encoding.md` R87). -/
inductive DecodeError where
  /-- `op = 01` with `w[16:8] != 0`. -/
  | reservedBitsOfWrite
  /-- `op = 10` with `w[15:0] != 0`. -/
  | reservedBitsOfRead
  /-- `op = 11` with `w[16:0] != 0`. -/
  | reservedBitsOfEnd
  deriving DecidableEq, Repr

/-- Field `op`, bits 18:17 (`30_encoding.md` R81). -/
def CmdWord.op (w : CmdWord) : BitVec 2 := w.extractLsb' 17 2
/-- Field `f`, bit 16. -/
def CmdWord.f (w : CmdWord) : Bool := w.getLsbD 16
/-- Field `a`, bits 15:8. -/
def CmdWord.a (w : CmdWord) : Byte := w.extractLsb' 8 8
/-- Field `b`, bits 7:0. -/
def CmdWord.b (w : CmdWord) : Byte := w.extractLsb' 0 8

/-- Direction from bit 16: 0 = write, 1 = read (`30_encoding.md` R83, R94). -/
def Direction.ofBit : Bool → Direction
  | false => .write
  | true => .read

/-- The direction as a bit: 0 = write, 1 = read (`30_encoding.md` R94). -/
def Direction.toBit : Direction → Bool
  | .write => false
  | .read => true

/-- The command decoder (`30_encoding.md` R82 to R87): total, an illegal word is rejected by name. -/
def decodeCmd (w : CmdWord) : Except DecodeError Instr :=
  if CmdWord.op w = 0b00#2 then
    .ok (.beginTransaction (CmdWord.a w) (CmdWord.b w) (Direction.ofBit (CmdWord.f w)))
  else if CmdWord.op w = 0b01#2 then
    if CmdWord.f w = false ∧ CmdWord.a w = 0x00#8 then .ok (.writeByte (CmdWord.b w))
    else .error .reservedBitsOfWrite
  else if CmdWord.op w = 0b10#2 then
    if CmdWord.a w = 0x00#8 ∧ CmdWord.b w = 0x00#8 then .ok (.readByte (CmdWord.f w))
    else .error .reservedBitsOfRead
  else
    if CmdWord.f w = false ∧ CmdWord.a w = 0x00#8 ∧ CmdWord.b w = 0x00#8 then .ok .endTransaction
    else .error .reservedBitsOfEnd

/-- The phase of a phase code (`30_encoding.md` R88): all four codes are used. -/
def Phase.ofCode (c : PhaseCode) : Phase :=
  if c = 0b00#2 then .start
  else if c = 0b01#2 then .dataNoack
  else if c = 0b10#2 then .dataAck
  else .stop

/-- The code of a phase (`30_encoding.md` R88). -/
def Phase.toCode : Phase → PhaseCode
  | .start => 0b00#2
  | .dataNoack => 0b01#2
  | .dataAck => 0b10#2
  | .stop => 0b11#2

/-- The micro-operation that drives a phase. -/
def Phase.toInstr : Phase → Instr
  | .start => .phStart
  | .dataNoack => .phDataNoack
  | .dataAck => .phDataAck
  | .stop => .phStop

/-- The phase decoder: total (`30_encoding.md` R100). -/
def decodePhase (c : PhaseCode) : Instr := (Phase.ofCode c).toInstr

/-- The decoder over both instruction formats. -/
def decode : Code → Except DecodeError Instr
  | .cmd w => decodeCmd w
  | .phase c => .ok (decodePhase c)

/-- Assemble a command word from its fields (`30_encoding.md` R81, R98). -/
def CmdWord.mk (op : BitVec 2) (f : Bool) (a b : Byte) : CmdWord := op ++ BitVec.ofBool f ++ a ++ b

/-- `BEGIN id, sub, W|R` (`30_encoding.md` R98). -/
def beginWord (id sub : Byte) (dir : Direction) : CmdWord := CmdWord.mk 0b00#2 dir.toBit id sub
/-- `WRITE v` (`30_encoding.md` R98). -/
def writeWord (v : Byte) : CmdWord := CmdWord.mk 0b01#2 false 0x00#8 v
/-- `READ ACK` or `READ NACK` (`30_encoding.md` R98). -/
def readWord (requestAck : Bool) : CmdWord := CmdWord.mk 0b10#2 requestAck 0x00#8 0x00#8
/-- `END` (`30_encoding.md` R98). -/
def endWord : CmdWord := CmdWord.mk 0b11#2 false 0x00#8 0x00#8

/-- The encoder. -/
def encode : Instr → Code
  | .beginTransaction id sub dir => .cmd (beginWord id sub dir)
  | .writeByte v => .cmd (writeWord v)
  | .readByte a => .cmd (readWord a)
  | .endTransaction => .cmd endWord
  | .phStart => .phase (Phase.toCode .start)
  | .phDataNoack => .phase (Phase.toCode .dataNoack)
  | .phDataAck => .phase (Phase.toCode .dataAck)
  | .phStop => .phase (Phase.toCode .stop)

/-- The instruction read from a word laid out as `spec/opcode_table.json` numbers bits: a word of at most 8 bits is of
format PHASE, a longer one of format CMD (`30_encoding.md` R80: each format has one fixed length; log 28). A value too
large for its format is no word of it. -/
def decodeTableWord (nbits w : Nat) : Option Instr :=
  if nbits ≤ 8 then
    if w < 4 then some (decodePhase (BitVec.ofNat 2 w)) else none
  else
    if w < 524288 then (decodeCmd (BitVec.ofNat 19 w)).toOption else none

end Sys2Proof
end

