-- ==== Sys2Proof/Machine/State.lean ====
section
/-! DEFINITION. The machine's state as plain data (`10_state.md` R20, `44_master_fsm.md` R191), the reasons a step can
stop, and the state after reset (`10_state.md` R36, R37). -/

namespace Sys2Proof.Machine

/-- The sequencer register's five values (`10_state.md` R21). The codes 5 to 7 are never produced and are absent
(U6, log 27). -/
inductive Seq where
  | idle
  | bStart
  | bAddr
  | wData
  | rData
  deriving DecidableEq, Repr

/-- One answer of the bus controller: the raw byte left in BC.STATUS and the byte left in BC.DATA (`00_scope.md`
section 5, "Oracle"). -/
structure Answer where
  s : Byte
  d : Byte
  deriving DecidableEq, Repr

/-- Events of the history (`00_scope.md` section 5, "Event history"). The hardware keeps no history. -/
inductive Event where
  /-- `acc(cmd)`: a legal command was accepted. -/
  | acc (i : Instr)
  /-- `acc(ILLEGAL w)`: an illegal command word was accepted (`60_exceptions.md` R205). -/
  | accIllegal (w : CmdWord)
  /-- `req(p, data)`: phase `p` requested with BC.DATA = `data` at that moment. -/
  | req (p : Phase) (data : Byte)
  /-- `cpl(p, s, d)`: phase `p` completed with the answer `(s, d)`. -/
  | cpl (p : Phase) (s d : Byte)
  /-- `rsp(cmd, result, rdata)`: response delivered. -/
  | rsp (k : CmdKind) (result rdata : Byte)
  /-- `fail(cause)`. -/
  | fail (c : Cause)
  deriving DecidableEq, Repr

/-- One access of the CORE to space S1 (`20_memory.md` R57). For the poll of the completion flag only the read that finds
it set is listed (U14, log 17). -/
inductive Access where
  | rd (r : BcReg) (v : Byte)
  | wr (r : BcReg) (v : Byte)
  deriving DecidableEq, Repr

/-- A `drive_phase` call made directly on the BCI (the calls of `95_test_vectors.md` section 2.4), which the host can not
make (`30_encoding.md` R88). The masked status a call returns is not held here: it exists only in the step that reads it
(`10_state.md` R27). MODEL'S OWN (log 14). -/
inductive BenchCall where
  /-- No such call. -/
  | idle
  /-- A phase code is presented and not yet driven. -/
  | presented (c : PhaseCode)
  /-- The call is in its hold (`40_bus_phase_controller.md` R115). -/
  | holding
  deriving DecidableEq, Repr

/-- Values of the three bus-controller registers. A reset takes EN, bit 2 of `ctrl`, as 0 (`10_state.md` R37,
log 32). -/
structure BcRegs where
  ctrl : Byte
  status : Byte
  data : Byte
  deriving DecidableEq, Repr

/-- What the registers that a reset leaves unspecified come up with (`10_state.md` R36, R37), and whether the bus
controller is reset at the same time (`70_reset_and_hazards.md` R231: "not in the document"): `bc = none` leaves its
registers as they were. FREE VALUES: any record may be pending (log 7), and a bus controller that is reset comes up
disabled (R37, log 32). -/
structure ResetLeaves where
  ab : Byte
  ackreq : Bool
  result : Byte
  rdata : Byte
  bc : Option BcRegs
  deriving DecidableEq, Repr

/-- Stuck states, written as named reasons. No meaning of an instruction raises one. -/
inductive Fault where
  /-- HANG (`40_bus_phase_controller.md` R115, `60_exceptions.md` R212): a requested phase has not been completed and the
  bus controller gives no answer. Raised by the machine's step only. SAFE: the hardware waits for ever (log 3). -/
  | phaseNotCompleted
  /-- END OF A RUN (`44_master_fsm.md` R197): `seq = IDLE` and the host has no command left. Raised by the machine's step
  only. SAFE: the CORE stays idle (logs 4, 16). -/
  | noCommand
  deriving DecidableEq, Repr

/-- Reasons to give an instruction no meaning. -/
inductive Refusal where
  /-- Raised by a refused arm of `exec` for an instruction that has no meaning yet. SAFE. No arm uses it. -/
  | notModelled (mnemonic : String)
  deriving DecidableEq, Repr

/-- The machine state. Groups A and B of `10_state.md` R20, the ghost bit, the history and the host's list of R191, and
the model's own fields (inputs and a ghost list), which INVENTORY.md marks. -/
structure State where
  /-- `seq` (`10_state.md` R21). -/
  seq : Seq
  /-- `retry` (R22). -/
  retry : Counter
  /-- `ab` (R23). -/
  ab : Byte
  /-- `ackreq` (R24). -/
  ackreq : Bool
  /-- `RESULT` (R25). -/
  result : Byte
  /-- `RDATA` (R26). -/
  rdata : Byte
  /-- `BC.CTRL` (R28), with the completion flag in bit 7 (R31). -/
  bcCtrl : Byte
  /-- `BC.STATUS` (R29). -/
  bcStatus : Byte
  /-- `BC.DATA` (R30). -/
  bcData : Byte
  /-- Ghost bit `held` (R33). -/
  held : Bool
  /-- Event history, oldest first (`44_master_fsm.md` R191). -/
  hist : List Event
  /-- The host's remaining command words, the next one first (R191). -/
  hostCmds : List CmdWord
  /-- MODEL'S OWN: the answers the bus controller will still give, the next one first (`40_bus_phase_controller.md` R118,
  log 2). -/
  answers : List Answer
  /-- MODEL'S OWN, free values: what BC.STATUS and BC.DATA hold after each STOP request (R119, log 8). -/
  stopLeaves : List Answer
  /-- MODEL'S OWN: a pending reset event (`70_reset_and_hazards.md` R230, log 7). -/
  resetIn : Option ResetLeaves
  /-- MODEL'S OWN, a free value: when the bus controller completes a phase that a reset abandoned, if it does
  (`40_bus_phase_controller.md` R118: "the step may never happen"). `some k`: once at most `k` host commands are left;
  `none`: not while the CORE is idle (log 16). -/
  lateAt : Option Nat
  /-- MODEL'S OWN: a direct `drive_phase` call (log 14). -/
  bench : BenchCall
  /-- MODEL'S OWN ghost: the CORE's accesses to space S1, oldest first (log 17). -/
  accesses : List Access
  deriving DecidableEq, Repr

/-- The machine right after reset (`10_state.md` R36, R37, `44_master_fsm.md` R191). Given by the spec: `seq`, `retry`,
`held`, the empty history. DESIGN CHOICE (log 5): `ab`, `ackreq`, `result`, `rdata`. PRESUMED, the family's (log 6): the
three bus-controller registers. DESIGN CHOICE (log 2, 7, 8, 14, 16, 17, 19): the inputs and the model's own fields. -/
def State.reset : State where
  seq := .idle
  retry := 0#6
  ab := 0x00#8
  ackreq := false
  result := 0x00#8
  rdata := 0x00#8
  bcCtrl := 0x00#8
  bcStatus := 0xF8#8
  bcData := 0xFF#8
  held := false
  hist := []
  hostCmds := []
  answers := []
  stopLeaves := []
  resetIn := none
  lateAt := none
  bench := .idle
  accesses := []

end Sys2Proof.Machine
end

