-- ==== Sys2Proof/Machine/Operands.lean ====
section
/-! DEFINITION. Operand forms and the data formats between the CORE and the bus controller: the address byte
(`30_encoding.md` R93), the control patterns (R89), the status codes and their classification (R90 to R92). -/

namespace Sys2Proof.Machine

/-- `ADDR_ACK_STRICT` (`30_encoding.md` R92, decision D9): an open argument of the machine. This is its default. Every
operation that reads it takes it as an argument, so claims can be made under both settings (log 11). -/
def addrAckStrict : Bool := false

/-- The address byte: `ab[7:1] = id[7:1] | sub[7:1]`, `ab[0] = dir` (`30_encoding.md` R93, `44_master_fsm.md` R186). -/
def addressByte (id sub : Byte) (dir : Direction) : Byte :=
  (id.extractLsb' 1 7 ||| sub.extractLsb' 1 7) ++ BitVec.ofBool dir.toBit

/-- The direction of the BEGIN whose address byte this is: bit 0 (`30_encoding.md` R93, R94). -/
def directionOf (ab : Byte) : Direction := Direction.ofBit (ab.getLsbD 0)

/-- The control pattern `pat(p)` (`30_encoding.md` R89). PRESUMED by the spec, from general knowledge (G1, log 9). -/
def pat : Phase → Byte
  | .start => 0xA4#8
  | .dataNoack => 0x84#8
  | .dataAck => 0xC4#8
  | .stop => 0x94#8

/-- The bits of BC.CTRL that a pattern decides once it is written: all but INT, which the write clears, and WC, which is
read-only (`10_state.md` R28). -/
def requestBits (c : Byte) : Byte := c &&& 0x77#8

/-- The phase whose pattern was last written to BC.CTRL, if any (`10_state.md` R28: "the phase last requested"). -/
def lastPhase (c : Byte) : Option Phase :=
  if requestBits c = requestBits (pat .start) then some .start
  else if requestBits c = requestBits (pat .dataNoack) then some .dataNoack
  else if requestBits c = requestBits (pat .dataAck) then some .dataAck
  else if requestBits c = requestBits (pat .stop) then some .stop
  else none

/-- `status_code` (`30_encoding.md` R91). PRESUMED by the spec, from general knowledge (G2, log 10). -/
def statusCode : Cond → Byte
  | .startTx => 0x08#8
  | .rstartTx => 0x10#8
  | .slawAck => 0x18#8
  | .slawNack => 0x20#8
  | .dataTxAck => 0x28#8
  | .dataTxNack => 0x30#8
  | .arbLost => 0x38#8
  | .slarAck => 0x40#8
  | .slarNack => 0x48#8
  | .dataRxAck => 0x50#8
  | .dataRxNack => 0x58#8
  | .other v => v

/-- The eleven named conditions, in the order of `30_encoding.md` R91. -/
def namedConds : List Cond :=
  [.startTx, .rstartTx, .slawAck, .slawNack, .dataTxAck, .dataTxNack, .arbLost, .slarAck, .slarNack, .dataRxAck,
    .dataRxNack]

/-- The Hardware Status Code of a raw status byte: `& 0xF8` (`30_encoding.md` R90). -/
def maskStatus (raw : Byte) : Byte := raw &&& Config.statusMask

/-- `cond(st)`: the row whose code equals `st`, else `OTHER(st)` (`30_encoding.md` R92). -/
def cond (st : Byte) : Cond :=
  (namedConds.find? fun c => statusCode c == st).getD (.other st)

/-- What the address step makes of a condition (`41_begin_and_retry.md` R135). -/
inductive AddrVerdict where
  | retry
  | acked
  | abort
  deriving DecidableEq, Repr

/-- `c` is in `ADDR_NACK` for a BEGIN of direction `dir` (`30_encoding.md` R92). -/
def isAddrNack (strict : Bool) (dir : Direction) (c : Cond) : Bool :=
  (c == .slawNack && (!strict || dir == .write)) || (c == .slarNack && (!strict || dir == .read))

/-- `c` is in `ADDR_ACK` for a BEGIN of direction `dir` (`30_encoding.md` R92). -/
def isAddrAck (strict : Bool) (dir : Direction) (c : Cond) : Bool :=
  (c == .slawAck && (!strict || dir == .write)) || (c == .slarAck && (!strict || dir == .read))

/-- The three cases of the address step, tested in this order (`41_begin_and_retry.md` R135, `60_exceptions.md` R204). -/
def addrVerdict (strict : Bool) (dir : Direction) (c : Cond) : AddrVerdict :=
  if isAddrNack strict dir c || c == .arbLost then .retry
  else if !isAddrAck strict dir c then .abort
  else .acked

/-- The class of a failure, from its label and the status that led to it (`60_exceptions.md` R200, R202). An illegal word has
none. R202 gives BUDGET the class "(a) or (b), exhausted" and does not say which of the two when the attempts mix
arbitration losses and address NACKs: DESIGN CHOICE, the class of the last transient status (log 33). -/
def errorClass (c : Cause) (st : Cond) : Option ErrorClass :=
  match c with
  | .budget => some (if st = .arbLost then .contention else .peerNack)
  | .startSeq => some .sequence
  | .addrSeq => some .sequence
  | .dataWrite => some (if st = .dataTxNack then .peerNack else .sequence)
  | .dataRead => some .sequence
  | .illegal => none

/-- The 3-bit code of the sequencer register (`10_state.md` R21). -/
def seqCode : Seq → BitVec 3
  | .idle => 0b000#3
  | .bStart => 0b001#3
  | .bAddr => 0b010#3
  | .wData => 0b011#3
  | .rData => 0b100#3

/-- The sequencer value of a 3-bit code: hardware treats the three codes no rule produces as IDLE (`10_state.md` R21, U6,
log 27). -/
def seqOfCode (c : BitVec 3) : Seq :=
  if c = 0b001#3 then .bStart
  else if c = 0b010#3 then .bAddr
  else if c = 0b011#3 then .wData
  else if c = 0b100#3 then .rData
  else .idle

/-- The status condition a READ wants (`42_byte_transfer_and_end.md` R152). -/
def wantedCond (ackreq : Bool) : Cond := if ackreq then .dataRxAck else .dataRxNack

/-- The phase a READ drives (`42_byte_transfer_and_end.md` R152, R154). -/
def readPhase (ackreq : Bool) : Phase := if ackreq then .dataAck else .dataNoack

end Sys2Proof.Machine
end

