-- ==== Sys2Proof/Machine/Flags.lean ====
section
/-! DEFINITION. The one flag of the block, the completion flag INT at `BC.CTRL[7]` (`10_state.md` R31), and the host's
status word STAT (R34). There are no condition codes, carry or overflow flags. -/

namespace Sys2Proof.Machine

/-- INT, bit 7 of BC.CTRL (`10_state.md` R31). -/
def intOf (c : Byte) : Bool := c.getLsbD 7

/-- The completion flag of a state. -/
def State.intFlag (s : State) : Bool := intOf s.bcCtrl

/-- What BC.CTRL holds after the CORE writes `v` to it: writing 1 to INT clears it, writing 0 leaves it (`10_state.md`
R28, R31), WC is read-only and keeps its value (R28, log 12), the other bits take the written value. -/
def ctrlAfterWrite (old v : Byte) : Byte :=
  requestBits v ||| (old &&& 0x08#8) ||| (if intOf v then 0x00#8 else old &&& 0x80#8)

/-- BC.CTRL with INT set, as the bus controller sets it (`40_bus_phase_controller.md` R118). -/
def ctrlCompleted (c : Byte) : Byte := c ||| 0x80#8

/-- BC.CTRL with EN clear, the other bits as given: the bus controller is disabled until the first pattern is written, and
every pattern has `EN = 1` (`10_state.md` R28, R37, log 32). -/
def ctrlDisabled (c : Byte) : Byte := c &&& 0xFB#8

/-- The phase that is requested and not completed, if there is one and the bus controller has a completion step for it:
the last pattern written is START, DATA_NOACK or DATA_ACK and INT reads 0 (`40_bus_phase_controller.md` R118, R119). -/
def outstandingPhase (c : Byte) : Option Phase :=
  if intOf c then none
  else
    match lastPhase c with
    | some .start => some .start
    | some .dataNoack => some .dataNoack
    | some .dataAck => some .dataAck
    | some .stop => none
    | none => none

/-- STAT: `STAT[7] = BUSY = (seq != IDLE)`, `STAT[6] = 0`, `STAT[5:0] = ATTEMPTS = retry` (`10_state.md` R34). -/
def State.stat (s : State) : Byte := BitVec.ofBool (s.seq != .idle) ++ 0#1 ++ s.retry

end Sys2Proof.Machine
end

