-- ==== Sys2Proof/Machine/Ops.lean ====
section
/-! DEFINITION. The shared operations: the accesses to the bus controller's registers (`20_memory.md` R57), the request of
a phase (`40_bus_phase_controller.md` R110), the bus controller's completion step (R118), the end of a command by
`return Ok` or `raise Fail(cause)` (`41_begin_and_retry.md` R136, `60_exceptions.md` R207), and the reset event
(`70_reset_and_hazards.md` R230). -/

namespace Sys2Proof.Machine

/-- Append an event to the history. -/
def State.record (s : State) (e : Event) : State := { s with hist := s.hist ++ [e] }

/-- The value of a register of space S1 (`20_memory.md` R51). -/
def State.bc (s : State) : BcReg → Byte
  | .ctrl => s.bcCtrl
  | .status => s.bcStatus
  | .data => s.bcData

/-- `MemRead(BC.r, 1)` as an access: no side effect on the registers (`20_memory.md` R57). Its value is `s.bc r`. -/
def State.memRead (s : State) (r : BcReg) : State := { s with accesses := s.accesses ++ [.rd r (s.bc r)] }

/-- `MemWrite(BC.CTRL, 1, v)` (`20_memory.md` R57): requests the phase `v` names and clears the completion flag. -/
def State.writeCtrl (s : State) (v : Byte) : State :=
  { s with bcCtrl := ctrlAfterWrite s.bcCtrl v, accesses := s.accesses ++ [.wr .ctrl v] }

/-- `MemWrite(BC.DATA, 1, v)` (`20_memory.md` R57): deposits `v` and requests nothing. There is no operation that writes
BC.STATUS: "Nobody writes BC.STATUS" (R52). -/
def State.writeData (s : State) (v : Byte) : State :=
  { s with bcData := v, accesses := s.accesses ++ [.wr .data v] }

/-- After a STOP request the contents of BC.STATUS and BC.DATA are unspecified (`40_bus_phase_controller.md` R119, U4):
they take the free values next in `stopLeaves`, if there are any (log 8). -/
def State.afterStop (s : State) : State :=
  match s.stopLeaves with
  | [] => s
  | x :: rest => { s with bcStatus := x.s, bcData := x.d, stopLeaves := rest }

/-- The request half of `drive_phase(p)` (`40_bus_phase_controller.md` R110): write the pattern, record the request. A STOP
request also clears the ghost `held` (`10_state.md` R33). -/
def State.requestPhase (s : State) (p : Phase) : State :=
  match p with
  | .start => (s.writeCtrl (pat .start)).record (.req .start s.bcData)
  | .dataNoack => (s.writeCtrl (pat .dataNoack)).record (.req .dataNoack s.bcData)
  | .dataAck => (s.writeCtrl (pat .dataAck)).record (.req .dataAck s.bcData)
  | .stop => { (s.writeCtrl (pat .stop)).record (.req .stop s.bcData) with held := false }.afterStop

/-- The completion step of the bus controller (`40_bus_phase_controller.md` R118): `BC.STATUS <- s`, `BC.DATA <- d`,
`BC.CTRL[7] <- 1`, for the next answer. `none` when no phase is outstanding or no answer comes. The ghost `held` is not
set here but in the CORE's step that reads the status (`41_begin_and_retry.md` R133), or in `State.lateComplete` (log 31). -/
def State.busComplete (s : State) : Option State :=
  match outstandingPhase s.bcCtrl with
  | none => none
  | some p =>
    match s.answers with
    | [] => none
    | x :: rest =>
      some
        { s with
          bcStatus := x.s
          bcData := x.d
          bcCtrl := ctrlCompleted s.bcCtrl
          answers := rest
          hist := s.hist ++ [.cpl p x.s x.d] }

/-- The masked status of a completed phase (`40_bus_phase_controller.md` R116): `MemRead(BC.STATUS,1) & 0xF8`. -/
def State.status (s : State) : Byte := maskStatus s.bcStatus

/-- The accesses of R115 and R116: the poll that finds INT set, then the one read of BC.STATUS. -/
def State.takeStatus (s : State) : State := (s.memRead .ctrl).memRead .status

/-- The ghost bit becomes true when a START phase completes with START_TX or RSTART_TX (`10_state.md` R33). -/
def noteStart (c : Cond) (held : Bool) : Bool := held || c == .startTx || c == .rstartTx

/-- The ghost bit once the phase last requested has completed with the status in BC.STATUS (`10_state.md` R33). -/
def State.heldAfterPhase (s : State) : Bool :=
  if lastPhase s.bcCtrl = some .start then noteStart (cond s.status) s.held else s.held

/-- `return Ok` (`41_begin_and_retry.md` R136): `RESULT <- RESULT_OK`, `seq <- IDLE`, response. -/
def State.returnOk (s : State) (k : CmdKind) : State :=
  { s with result := Config.resultOk, seq := .idle }.record (.rsp k Config.resultOk s.rdata)

/-- `raise Fail(c)`, the block's one exception (`41_begin_and_retry.md` R136, `60_exceptions.md` R201, R207): record the
label, `RESULT <- RESULT_FAIL`, `seq <- IDLE`, response. Nothing is saved, no STOP is requested. -/
def State.raiseFail (s : State) (k : CmdKind) (c : Cause) : State :=
  { s.record (.fail c) with result := Config.resultFail, seq := .idle }.record (.rsp k Config.resultFail s.rdata)

/-- A command presented while the CORE is busy is held, not dropped (`44_master_fsm.md` R192, decision D1): it stays the
host's next command (log 15). -/
def State.holdCommand (s : State) (w : CmdWord) : State := { s with hostCmds := w :: s.hostCmds }

/-- Accepts need `seq = IDLE` (`44_master_fsm.md` R192): take the accepted state then, hold the command otherwise. -/
def acceptWhenIdle (w : CmdWord) (s accepted : State) : Host.Outcome State Fault Refusal :=
  match s.seq with
  | .idle => .next accepted
  | .bStart => .next (s.holdCommand w)
  | .bAddr => .next (s.holdCommand w)
  | .wData => .next (s.holdCommand w)
  | .rData => .next (s.holdCommand w)

/-- The reset event (`70_reset_and_hazards.md` R230, R231): the CORE's registers take the values of `10_state.md` R36, the
unspecified ones the free values of the event; a command in progress, or a direct phase call, is abandoned without a
response; nothing is written to BC.CTRL. The bus controller keeps its registers unless it is reset too; it then comes up
disabled (R37, log 32), so that no phase is outstanding. -/
def State.takeReset (s : State) (u : ResetLeaves) : State :=
  { s with
    seq := .idle
    retry := 0#6
    ab := u.ab
    ackreq := u.ackreq
    result := u.result
    rdata := u.rdata
    held := false
    bench := .idle
    resetIn := none
    bcCtrl := (u.bc.map fun r => ctrlDisabled r.ctrl).getD s.bcCtrl
    bcStatus := (u.bc.map BcRegs.status).getD s.bcStatus
    bcData := (u.bc.map BcRegs.data).getD s.bcData }

/-- The platform's boot duty before the first command, "configure bus speed" (`70_reset_and_hazards.md` R235): it may write
the prescaler field `BC.STATUS[2:0]`. It is a move of the platform, not of the CORE, and no step makes it. -/
def State.configureBusSpeed (s : State) (prescaler : BitVec 3) : State :=
  { s with bcStatus := s.bcStatus.extractLsb' 3 5 ++ prescaler }

end Sys2Proof.Machine
end

