-- ==== Sys2Proof/Machine/Begin.lean ====
section
/-! DEFINITION. BEGIN and the arbitration-loss retry engine, step by step (`41_begin_and_retry.md` R131 to R137). -/

namespace Sys2Proof.Machine

/-- The attempt gate (`41_begin_and_retry.md` R132, R137): the test precedes the increment. -/
def State.attemptGate (s : State) : State :=
  if Config.maxAttempts ≤ s.retry.toNat then s.raiseFail .beginCmd .budget
  else { s with retry := s.retry + 1#6, seq := .bStart }.requestPhase .start

/-- What the accept of BEGIN makes of a state (`41_begin_and_retry.md` R131): latch the address byte, clear the counter,
take the attempt gate in the same step. -/
def State.acceptBegin (s : State) (id sub : Byte) (dir : Direction) : State :=
  { s.record (.acc (.beginTransaction id sub dir)) with ab := addressByte id sub dir, retry := 0#6 }.attemptGate

/-- BEGIN (`41_begin_and_retry.md` R131): the accepting step. The command goes on by `completeStart` and
`completeAddress` as its phases complete. -/
def execBegin (id sub : Byte) (dir : Direction) (s : State) : Host.Outcome State Fault Refusal :=
  acceptWhenIdle (beginWord id sub dir) s (s.acceptBegin id sub dir)

/-- Address phase issued (`41_begin_and_retry.md` R134). -/
def State.issueAddress (s : State) : State :=
  { s.writeData s.ab with seq := .bAddr }.requestPhase .dataNoack

/-- START completed (`41_begin_and_retry.md` R133), the three cases in order. -/
def State.completeStart (s : State) : State :=
  if cond s.status = .arbLost then s.takeStatus.attemptGate
  else if cond s.status ≠ .startTx ∧ cond s.status ≠ .rstartTx then s.takeStatus.raiseFail .beginCmd .startSeq
  else { s.takeStatus with held := noteStart (cond s.status) s.held }.issueAddress

/-- Address phase completed (`41_begin_and_retry.md` R135), under the setting `strict` of `ADDR_ACK_STRICT`. The direction
of the BEGIN is bit 0 of the latched address byte. -/
def State.completeAddress (strict : Bool) (s : State) : State :=
  match addrVerdict strict (directionOf s.ab) (cond s.status) with
  | .retry => s.takeStatus.attemptGate
  | .abort => s.takeStatus.raiseFail .beginCmd .addrSeq
  | .acked => s.takeStatus.returnOk .beginCmd

end Sys2Proof.Machine
end

