-- ==== Sys2Proof/Machine/Phases.lean ====
section
/-! DEFINITION. The four phase micro-operations as instructions of their own (`40_bus_phase_controller.md` R110 to R114):
a `drive_phase` call made directly on the BCI, as in `95_test_vectors.md` section 2.4. Inside a command the Transaction
Engine drives the same request, `State.requestPhase` (log 14). -/

namespace Sys2Proof.Machine

/-- PH_START (`40_bus_phase_controller.md` R111): write `pat(START)`, then hold for the completion flag. -/
def execPhStart (s : State) : Host.Outcome State Fault Refusal :=
  .next { s.requestPhase .start with bench := .holding }

/-- PH_DATA_NOACK (`40_bus_phase_controller.md` R112). -/
def execPhDataNoack (s : State) : Host.Outcome State Fault Refusal :=
  .next { s.requestPhase .dataNoack with bench := .holding }

/-- PH_DATA_ACK (`40_bus_phase_controller.md` R113). -/
def execPhDataAck (s : State) : Host.Outcome State Fault Refusal :=
  .next { s.requestPhase .dataAck with bench := .holding }

/-- The value `drive_phase(STOP)` returns, unused by every caller (`40_bus_phase_controller.md` R110, R114). -/
def stopReturns : Byte := 0x00#8

/-- PH_STOP (`40_bus_phase_controller.md` R114): no hold and no status; the call returns `stopReturns` at once. -/
def execPhStop (s : State) : Host.Outcome State Fault Refusal :=
  .next { s.requestPhase .stop with bench := .idle }

/-- A direct call returns (`40_bus_phase_controller.md` R115 to R117): the completion flag is set, the status is read once,
masked and returned, whatever it is. The first component is the value returned: it exists in this step only and no field
of the state holds it (`10_state.md` R27). The ghost `held` notes a START reported as transmitted (R33). -/
def State.returnPhase (s : State) : Byte × State :=
  (s.status,
    { s.takeStatus with
      bench := .idle
      held := s.heldAfterPhase })

end Sys2Proof.Machine
end

