-- ==== Sys2Proof/Machine/Transfer.lean ====
section
/-! DEFINITION. WRITE, READ and END (`42_byte_transfer_and_end.md` R150, R152, R155) and the illegal command word
(`60_exceptions.md` R205). -/

namespace Sys2Proof.Machine

/-- Accept of WRITE (`42_byte_transfer_and_end.md` R150): load the byte, request DATA_NOACK. -/
def State.acceptWrite (s : State) (v : Byte) : State :=
  { (s.record (.acc (.writeByte v))).writeData v with seq := .wData }.requestPhase .dataNoack

/-- WRITE (`42_byte_transfer_and_end.md` R150): the accepting step. -/
def execWrite (v : Byte) (s : State) : Host.Outcome State Fault Refusal :=
  acceptWhenIdle (writeWord v) s (s.acceptWrite v)

/-- WRITE completes (`42_byte_transfer_and_end.md` R150): success on DATA_TX_ACK only, no retry. -/
def State.completeWrite (s : State) : State :=
  if cond s.status = .dataTxAck then s.takeStatus.returnOk .writeCmd
  else s.takeStatus.raiseFail .writeCmd .dataWrite

/-- Accept of READ (`42_byte_transfer_and_end.md` R152): latch `request_ack`, request the matching DATA phase. -/
def State.acceptRead (s : State) (requestAck : Bool) : State :=
  { s.record (.acc (.readByte requestAck)) with ackreq := requestAck, seq := .rData }.requestPhase (readPhase requestAck)

/-- READ (`42_byte_transfer_and_end.md` R152): the accepting step. -/
def execRead (requestAck : Bool) (s : State) : Host.Outcome State Fault Refusal :=
  acceptWhenIdle (readWord requestAck) s (s.acceptRead requestAck)

/-- `RDATA <- MemRead(BC.DATA, 1)` (`42_byte_transfer_and_end.md` R152, R153). -/
def State.takeData (s : State) : State := { s.memRead .data with rdata := s.bcData }

/-- READ completes (`42_byte_transfer_and_end.md` R152): success on the exact matching status only, and only then is
BC.DATA read. -/
def State.completeRead (s : State) : State :=
  if cond s.status = wantedCond s.ackreq then s.takeStatus.takeData.returnOk .readCmd
  else s.takeStatus.raiseFail .readCmd .dataRead

/-- What END makes of a state (`42_byte_transfer_and_end.md` R155): request STOP, answer success; no wait, no status. -/
def State.acceptEnd (s : State) : State :=
  ((s.record (.acc .endTransaction)).requestPhase .stop).returnOk .endCmd

/-- END (`42_byte_transfer_and_end.md` R155): the single step of the command. -/
def execEnd (s : State) : Host.Outcome State Fault Refusal := acceptWhenIdle endWord s s.acceptEnd

/-- An illegal command word (`60_exceptions.md` R205): no access to the bus controller, the one failure response. -/
def State.acceptIllegal (s : State) (w : CmdWord) : State :=
  (s.record (.accIllegal w)).raiseFail .illegalCmd .illegal

end Sys2Proof.Machine
end

