-- ==== Sys2Proof/Machine/Dispatch.lean ====
section
/-! DEFINITION. One arm per instruction: the meaning of each row of `spec/opcode_table.json`. -/

namespace Sys2Proof.Machine

def exec (i : Instr) (s : State) : Host.Outcome State Fault Refusal :=
  match i with
  | .beginTransaction id sub dir => Sys2Proof.Machine.execBegin id sub dir s
  | .writeByte v => Sys2Proof.Machine.execWrite v s
  | .readByte a => Sys2Proof.Machine.execRead a s
  | .endTransaction => Sys2Proof.Machine.execEnd s
  | .phStart => Sys2Proof.Machine.execPhStart s
  | .phDataNoack => Sys2Proof.Machine.execPhDataNoack s
  | .phDataAck => Sys2Proof.Machine.execPhDataAck s
  | .phStop => Sys2Proof.Machine.execPhStop s

end Sys2Proof.Machine
end

