-- ==== Sys2Proof/Machine/Sequencer.lean ====
section
/-! DEFINITION. The master state machine as a whole: which agent steps in which state (`44_master_fsm.md` R190, R192;
`40_bus_phase_controller.md` R118 for the bus controller, log 16) and the transition table (R193). -/

namespace Sys2Proof.Machine

/-- The bus controller's step, or the hang: while a phase is outstanding nothing else can happen
(`40_bus_phase_controller.md` R115, R118, `60_exceptions.md` R212). -/
def busStep (s : State) : Host.Outcome State Fault Refusal :=
  match s.busComplete with
  | some t => .next t
  | none => .fault .phaseNotCompleted

/-- Accept the host's next command (`44_master_fsm.md` rows T1 to T5), or stop at the end of the run (R197). -/
def acceptNext (s : State) : Host.Outcome State Fault Refusal :=
  match s.hostCmds with
  | [] => .fault .noCommand
  | w :: rest =>
    match decodeCmd w with
    | .ok i => exec i { s with hostCmds := rest }
    | .error _ => .next ({ s with hostCmds := rest }.acceptIllegal w)

/-- With `seq = IDLE`: the bus controller completes, before anything else happens, the phase that a reset abandoned. Its
step is enabled there, since the last pattern written is a START or DATA one and INT reads 0
(`40_bus_phase_controller.md` R118, `70_reset_and_hazards.md` R231), and `lateAt` says that it is taken now (log 16). A
phase that a direct call holds for is not abandoned. -/
def State.lateDue (s : State) : Bool :=
  match s.lateAt with
  | none => false
  | some k => decide (s.hostCmds.length ≤ k) && s.bench != .holding && s.busComplete.isSome

/-- The late completion, if it is due: the completion step of R118. No step of the CORE follows that would read the status,
so the ghost `held` notes here a START that has completed as transmitted (`10_state.md` R33, log 31). -/
def State.lateComplete (s : State) : Option State :=
  if s.lateDue then s.busComplete.map fun t => { t with held := t.heldAfterPhase } else none

/-- A step with `seq = IDLE`: the bus controller's late completion if it is due (log 16), else a direct phase call if
there is one (log 14), else the host's next command. -/
def idleStep (s : State) : Host.Outcome State Fault Refusal :=
  match s.lateComplete with
  | some t => .next t
  | none =>
    match s.bench with
    | .presented c => exec (decodePhase c) { s with bench := .idle }
    | .holding => if s.intFlag then .next s.returnPhase.2 else busStep s
    | .idle => acceptNext s

/-- A step in a waiting state (`44_master_fsm.md` R192): the CORE's complete step `t` when INT is set, else the bus
controller's. -/
def waitStep (s t : State) : Host.Outcome State Fault Refusal :=
  if s.intFlag then .next t else busStep s

/-- One step of the machine under the setting `strict` of `ADDR_ACK_STRICT` (`44_master_fsm.md` R192, R193). A pending
reset event comes first: it can occur in any state (`70_reset_and_hazards.md` R230). -/
def advance (strict : Bool) (s : State) : Host.Outcome State Fault Refusal :=
  match s.resetIn with
  | some u => .next (s.takeReset u)
  | none =>
    match s.seq with
    | .idle => idleStep s
    | .bStart => waitStep s s.completeStart
    | .bAddr => waitStep s (s.completeAddress strict)
    | .wData => waitStep s s.completeWrite
    | .rData => waitStep s s.completeRead

/-- `n` steps of the machine, stopping where a step stops. -/
def advanceN (strict : Bool) : Nat → State → Host.Outcome State Fault Refusal
  | 0, s => .next s
  | n + 1, s =>
    match advance strict s with
    | .next t => advanceN strict n t
    | .fault r => .fault r
    | .refused r => .refused r

end Sys2Proof.Machine
end

