-- ==== Sys2Proof/Machine/Step.lean ====
section
/-! DEFINITION. The step of the machine at the default setting of `ADDR_ACK_STRICT`, and how an instruction is placed where
the next step takes it. -/

namespace Sys2Proof.Machine

/-- One step (`44_master_fsm.md` R190 to R193). -/
def step (s : State) : Host.Outcome State Fault Refusal := advance addrAckStrict s

/-- `s` with an instruction placed so that the next step takes it (log 19): a command word is what the idle host presents
next, a phase code is presented to the BCI directly. The CORE is idle, since a command is
accepted in IDLE only (`44_master_fsm.md` R192), and neither a reset nor a late completion comes before it. -/
def State.withFetchWord (s : State) (nbits w : Nat) : State :=
  if nbits ≤ 8 then { s with seq := .idle, resetIn := none, lateAt := none, bench := .presented (BitVec.ofNat 2 w) }
  else
    { s with
      seq := .idle
      resetIn := none
      lateAt := none
      bench := .idle
      hostCmds := BitVec.ofNat 19 w :: s.hostCmds }

end Sys2Proof.Machine
end

