-- ==== Sys2Proof/Machine/Command.lean ====
section
/-! DEFINITION. The command-level function (`44_master_fsm.md` R194): each instruction as a whole, written from the
pseudocode of `40_bus_phase_controller.md` R110, `41_begin_and_retry.md` R130 and `42_byte_transfer_and_end.md` R150,
R152, R155, over the same state, whose `answers` list is the list of R194. `none` is the hang: the list runs out while a
phase is waiting. The small-step machine is `advance`. The two are to be proved equal. -/

namespace Sys2Proof.Machine

/-- `drive_phase(p)` for a phase that is waited for (`40_bus_phase_controller.md` R110, `44_master_fsm.md` R194): request
it, let the bus controller take the head of the answers, read the status. -/
def drivePhase (p : Phase) (s : State) : Option (Byte × State) :=
  match (s.requestPhase p).busComplete with
  | none => none
  | some t => some (t.status, t.takeStatus)

/-- The loop of BEGIN (`41_begin_and_retry.md` R130). `fuel` bounds the passes: `MAX_ATTEMPTS` is enough from a cleared
counter, since every pass counts one attempt. -/
def beginLoop (strict : Bool) (fuel : Nat) (s : State) : Option State :=
  match fuel with
  | 0 => some (s.raiseFail .beginCmd .budget)
  | n + 1 =>
    if Config.maxAttempts ≤ s.retry.toNat then some (s.raiseFail .beginCmd .budget)
    else
      match drivePhase .start { s with retry := s.retry + 1#6 } with
      | none => none
      | some (st, s1) =>
        if cond st = .arbLost then beginLoop strict n s1
        else if cond st ≠ .startTx ∧ cond st ≠ .rstartTx then some (s1.raiseFail .beginCmd .startSeq)
        else
          match drivePhase .dataNoack ({ s1 with held := true }.writeData s1.ab) with
          | none => none
          | some (st2, s2) =>
            match addrVerdict strict (directionOf s2.ab) (cond st2) with
            | .retry => beginLoop strict n s2
            | .abort => some (s2.raiseFail .beginCmd .addrSeq)
            | .acked => some (s2.returnOk .beginCmd)

/-- BEGIN as a whole (`41_begin_and_retry.md` R130). -/
def beginWhole (strict : Bool) (id sub : Byte) (dir : Direction) (s : State) : Option State :=
  beginLoop strict Config.maxAttempts
    { s.record (.acc (.beginTransaction id sub dir)) with ab := addressByte id sub dir, retry := 0#6 }

/-- WRITE as a whole (`42_byte_transfer_and_end.md` R150). -/
def writeWhole (v : Byte) (s : State) : Option State :=
  match drivePhase .dataNoack ((s.record (.acc (.writeByte v))).writeData v) with
  | none => none
  | some (st, t) =>
    if cond st = .dataTxAck then some (t.returnOk .writeCmd) else some (t.raiseFail .writeCmd .dataWrite)

/-- READ as a whole (`42_byte_transfer_and_end.md` R152). -/
def readWhole (requestAck : Bool) (s : State) : Option State :=
  match drivePhase (readPhase requestAck) { s.record (.acc (.readByte requestAck)) with ackreq := requestAck } with
  | none => none
  | some (st, t) =>
    if cond st = wantedCond requestAck then some (t.takeData.returnOk .readCmd)
    else some (t.raiseFail .readCmd .dataRead)

/-- END as a whole (`42_byte_transfer_and_end.md` R155): no answer is consumed. -/
def endWhole (s : State) : Option State :=
  some (((s.record (.acc .endTransaction)).requestPhase .stop).returnOk .endCmd)

/-- A direct `drive_phase` call as a whole (`40_bus_phase_controller.md` R110): the value it returns, which no state holds
(`10_state.md` R27), and the state it leaves. -/
def phaseCall (p : Phase) (s : State) : Option (Byte × State) :=
  match p with
  | .stop => some (stopReturns, { s.requestPhase .stop with bench := .idle })
  | .start =>
    (drivePhase .start s).map fun r => (r.1, { r.2 with bench := .idle, held := noteStart (cond r.1) r.2.held })
  | .dataNoack => (drivePhase .dataNoack s).map fun r => (r.1, { r.2 with bench := .idle })
  | .dataAck => (drivePhase .dataAck s).map fun r => (r.1, { r.2 with bench := .idle })

/-- The state a direct call leaves. -/
def phaseWhole (p : Phase) (s : State) : Option State := (phaseCall p s).map Prod.snd

/-- The command-level function over all instructions. -/
def whole (strict : Bool) (i : Instr) (s : State) : Option State :=
  match i with
  | .beginTransaction id sub dir => beginWhole strict id sub dir s
  | .writeByte v => writeWhole v s
  | .readByte a => readWhole a s
  | .endTransaction => endWhole s
  | .phStart => phaseWhole .start s
  | .phDataNoack => phaseWhole .dataNoack s
  | .phDataAck => phaseWhole .dataAck s
  | .phStop => phaseWhole .stop s

/-- The command-level function over every command word, the illegal ones among them (`44_master_fsm.md` R194,
`60_exceptions.md` R205): an illegal word is answered at once and consumes no answer. -/
def wholeWord (strict : Bool) (w : CmdWord) (s : State) : Option State :=
  match decodeCmd w with
  | .ok i => whole strict i s
  | .error _ => some (s.acceptIllegal w)

/-- The function of `44_master_fsm.md` R194 in that rule's own shape: from a state, a command and a list of answers to the
new state, the result and the unused answers. -/
def commandLevel (strict : Bool) (s : State) (w : CmdWord) (answers : List Answer) :
    Option (State × Byte × List Answer) :=
  (wholeWord strict w { s with answers := answers }).map fun t => (t, t.result, t.answers)

/-- The START phases requested in a stretch of the history. -/
def startRequests (es : List Event) : Nat :=
  (es.filter fun e => match e with | .req .start _ => true | _ => false).length

/-- The DATA_NOACK phases requested in a stretch of the history. -/
def dataNoackRequests (es : List Event) : Nat :=
  (es.filter fun e => match e with | .req .dataNoack _ => true | _ => false).length

/-- The STOP phases requested in a stretch of the history. -/
def stopRequests (es : List Event) : Nat :=
  (es.filter fun e => match e with | .req .stop _ => true | _ => false).length

end Sys2Proof.Machine
end

