-- ==== Sys2Proof/Machine/Drivers.lean ====
section
/-! DEFINITION. The four pseudo-instructions (`43_driver_sequences.md` R170 to R178, `30_encoding.md` R99): fixed lists of
commands the host issues, and the result each reports from the responses. They are the host's side, outside the CORE
(`00_scope.md` R5). -/

namespace Sys2Proof.Machine

/-- The pseudo-instructions (`30_encoding.md` R99). -/
inductive Driver where
  | expWrite (reg val : Byte)
  | expRead (reg : Byte)
  | tsStart
  | tsRead
  deriving DecidableEq, Repr

/-- The commands of a pseudo-instruction (`43_driver_sequences.md` R171 to R174). The expansion does not depend on any
response (R170). -/
def Driver.commands : Driver → List Instr
  | .expWrite reg val =>
    [.beginTransaction Config.expId Config.expSub .write, .writeByte reg, .writeByte val, .endTransaction]
  | .expRead reg =>
    [.beginTransaction Config.expId Config.expSub .write, .writeByte reg, .endTransaction,
      .beginTransaction Config.expId Config.expSub .read, .readByte false, .endTransaction]
  | .tsStart => [.beginTransaction Config.tsId Config.tsSub .write, .writeByte Config.tsCmdConvert, .endTransaction]
  | .tsRead =>
    [.beginTransaction Config.tsId Config.tsSub .write, .writeByte Config.tsRegTemp,
      .beginTransaction Config.tsId Config.tsSub .read, .readByte false, .endTransaction]

/-- The word of a host command. The phase micro-operations have none (`30_encoding.md` R88). -/
def commandWord : Instr → Option CmdWord
  | .beginTransaction id sub dir => some (beginWord id sub dir)
  | .writeByte v => some (writeWord v)
  | .readByte a => some (readWord a)
  | .endTransaction => some endWord
  | .phStart => none
  | .phDataNoack => none
  | .phDataAck => none
  | .phStop => none

/-- The words the host issues for a pseudo-instruction. -/
def Driver.words (d : Driver) : List CmdWord := d.commands.filterMap commandWord

/-- A response to a command (`30_encoding.md` R97). -/
structure Response where
  kind : CmdKind
  result : Byte
  rdata : Byte
  deriving DecidableEq, Repr

/-- The responses in a stretch of the history, in order. -/
def responses (es : List Event) : List Response :=
  es.filterMap fun e => match e with | .rsp k r d => some { kind := k, result := r, rdata := d } | _ => none

/-- `ok`: every command of the expansion answered RESULT_OK (`43_driver_sequences.md` R175). -/
def Driver.ok (d : Driver) (rs : List Response) : Bool :=
  rs.length == d.commands.length && rs.all fun r => r.result == Config.resultOk

/-- The place of the READ whose byte a reading pseudo-instruction returns, counted from 0: RDATA after command 5 of EXP_READ
and after command 4 of TS_READ (`43_driver_sequences.md` R172, R174). The other two read nothing. -/
def Driver.readPlace : Driver → Option Nat
  | .expWrite _ _ => none
  | .expRead _ => some 4
  | .tsStart => none
  | .tsRead => some 3

/-- The byte a reading pseudo-instruction returns (`43_driver_sequences.md` R172, R174). It has no value when `ok` is false
(R175, log 21). -/
def Driver.value (d : Driver) (rs : List Response) : Option Byte :=
  if d.ok rs then
    match d.readPlace with
    | none => none
    | some k => rs[k]?.map Response.rdata
  else none

/-- The bus operations of the application's INIT (`43_driver_sequences.md` R177), for context only. -/
def initDrivers : List Driver :=
  [.expWrite Config.expIodir 0x00#8, .expWrite Config.expGpio 0x00#8, .tsStart]

/-- The bus operations of one round of the application's RUN with a display pattern (`43_driver_sequences.md` R177), for
context only. -/
def runDrivers (pattern : Byte) : List Driver := [.tsRead, .expWrite Config.expGpio pattern]

end Sys2Proof.Machine
end

