-- ==== Sys2Proof/Safety.lean ====
section
/-! DEFINITION. The terms claims use: the invariant of the machine, hung and finished states, the premise BC_COMPLETES in
the form this model gives it, and the host's duties. -/

namespace Sys2Proof.Machine

/-- `seq` is one of the two states of BEGIN. -/
def State.inBegin (s : State) : Bool := s.seq == .bStart || s.seq == .bAddr

/-- The invariant of the machine: the counter stays within its bound (`10_state.md` R22), an attempt has been counted in
the states of BEGIN (`41_begin_and_retry.md` R132), BC.CTRL holds the pattern of the phase that each waiting state waits
for (R132, R134, `42_byte_transfer_and_end.md` R150, R152), the bus counts as held in the address step (R133), and a
direct phase call holds only while the CORE is idle (`40_bus_phase_controller.md` R121). -/
abbrev State.Inv (s : State) : Prop :=
  s.retry.toNat ≤ 50
  ∧ (s.inBegin = true → 1 ≤ s.retry.toNat)
  ∧ (s.seq = .bStart → lastPhase s.bcCtrl = some .start)
  ∧ (s.seq = .bAddr → lastPhase s.bcCtrl = some .dataNoack ∧ s.held = true)
  ∧ (s.seq = .wData → lastPhase s.bcCtrl = some .dataNoack)
  ∧ (s.seq = .rData → lastPhase s.bcCtrl = some (readPhase s.ackreq))
  ∧ (s.bench = .holding → s.seq = .idle ∧ (lastPhase s.bcCtrl = some .start
      ∨ lastPhase s.bcCtrl = some .dataNoack ∨ lastPhase s.bcCtrl = some .dataAck))

/-- A direct phase call is neither presented nor in its hold: always so in runs from reset in which only the host acts. -/
def State.benchQuiet (s : State) : Bool :=
  match s.bench with
  | .idle => true
  | .presented _ => false
  | .holding => false

/-- A state waiting for the bus controller (`44_master_fsm.md` R192). -/
abbrev State.waiting (s : State) : Prop := s.seq ≠ .idle ∧ s.intFlag = false

/-- A run is over (`44_master_fsm.md` R197): no command left and `seq = IDLE`. It says nothing of the bus. -/
abbrev State.runOver (s : State) : Prop := s.hostCmds = [] ∧ s.seq = .idle

/-- A hang (`60_exceptions.md` R212): the CORE waits and the bus controller gives no further answer. -/
abbrev State.hung (s : State) : Prop := s.waiting ∧ s.answers = []

/-- BC_COMPLETES (`44_master_fsm.md` R196) for the next `n` phases: the bus controller will complete at least that many.
Claims of termination name it. -/
abbrev State.bcCompletes (s : State) (n : Nat) : Prop := n ≤ s.answers.length

/-- The machine is about to accept a host command: the CORE is idle, and neither a reset nor a late completion of the bus
controller nor a direct phase call comes first. -/
abbrev State.ready (s : State) : Prop :=
  s.seq = .idle ∧ s.resetIn = none ∧ s.benchQuiet = true ∧ s.lateDue = false

/-! ### The host's duties -/

/-- Whether the host owes an END after command `i`, given that it owed one before (`42_byte_transfer_and_end.md` R156,
`70_reset_and_hazards.md` R240): BEGIN opens an episode or goes on with it, END closes it. -/
def owesAfter (owed : Bool) (i : Instr) : Bool :=
  match i with
  | .beginTransaction _ _ _ => true
  | .endTransaction => false
  | .writeByte _ => owed
  | .readByte _ => owed
  | .phStart => owed
  | .phDataNoack => owed
  | .phDataAck => owed
  | .phStop => owed

/-- A move of a program seen from outside the CORE: a command of the host, or a reset (`70_reset_and_hazards.md` R230). -/
inductive Move where
  | command (i : Instr)
  | reset
  deriving DecidableEq, Repr

/-- Whether an END is owed after a move. A reset discharges nothing: the bus stays as it was (`70_reset_and_hazards.md`
R231), and the ghost bit it clears is then wrong. -/
def Move.owesAfter (owed : Bool) (m : Move) : Bool :=
  match m with
  | .command i => Sys2Proof.Machine.owesAfter owed i
  | .reset => owed

/-- Whether an END is owed after a list of moves. -/
def owedBy (owed : Bool) (ms : List Move) : Bool := ms.foldl Move.owesAfter owed

/-- The host's duty on programs, whole (`70_reset_and_hazards.md` R240): "every BEGIN is followed, before the end of the
program, by an END with no reset between". `owed` says that an earlier BEGIN still waits for its END. -/
def pairsStartStop (owed : Bool) (ms : List Move) : Bool :=
  match ms with
  | [] => !owed
  | .reset :: rest => !owed && pairsStartStop owed rest
  | .command i :: rest => pairsStartStop (owesAfter owed i) rest

/-- The same duty on a list of commands alone, for a stretch without a reset (`70_reset_and_hazards.md` R240). -/
def closesEpisodes (owed : Bool) (is : List Instr) : Bool := pairsStartStop owed (is.map .command)

/-- END exactly once per episode (`70_reset_and_hazards.md` R241): no END that is not owed, and none owed at the end. -/
def endsOncePerEpisode (owed : Bool) (is : List Instr) : Bool :=
  match is with
  | [] => !owed
  | i :: rest => (owed || !(i == .endTransaction)) && endsOncePerEpisode (owesAfter owed i) rest

/-- The host's duty after a reset that may have cut a command short: END first (`70_reset_and_hazards.md` R236). -/
def endsFirst : List Instr → Bool
  | [] => true
  | i :: _ => i == .endTransaction

/-- Whether the next command is a READ. -/
def startsWithRead : List Instr → Bool
  | [] => false
  | i :: _ => i == .readByte true || i == .readByte false

/-- The host's choice of `request_ack` (`70_reset_and_hazards.md` R245): false "for the last (or only) byte of a read,
`true` otherwise". A read is a run of READs in a row (log 30). -/
def acksAllButLastRead : List Instr → Bool
  | [] => true
  | i :: rest => (i != .readByte (!startsWithRead rest)) && acksAllButLastRead rest

/-- The END a command in the history leaves owed. Only an accepted command changes it. -/
def Event.owesAfter (owed : Bool) (e : Event) : Bool :=
  match e with
  | .acc i => Sys2Proof.Machine.owesAfter owed i
  | .accIllegal _ => owed
  | .req _ _ => owed
  | .cpl _ _ _ => owed
  | .rsp _ _ _ => owed
  | .fail _ => owed

/-- A BEGIN was accepted and no END after it (`70_reset_and_hazards.md` R240). It is read from the history, which a reset
keeps (log 18): unlike `held`, it still stands after a reset that cut the episode. -/
def State.owesEnd (s : State) : Bool := s.hist.foldl Event.owesAfter false

/-- The move a command word makes. An illegal word opens and closes nothing (`60_exceptions.md` R205). -/
def moveOf (w : CmdWord) : Option Move :=
  match decodeCmd w with
  | .ok i => some (.command i)
  | .error _ => none

/-- The moves still to come: the pending reset, which is taken first, and the host's legal commands. -/
def State.moves (s : State) : List Move :=
  (match s.resetIn with | none => [] | some _ => [.reset]) ++ s.hostCmds.filterMap moveOf

/-- The host's duty at a state (`70_reset_and_hazards.md` R240): the moves to come close the episode in progress and every
later one, and no reset cuts one. A state with a reset pending inside an episode does not meet it. -/
def State.meetsDuty (s : State) : Bool := pairsStartStop s.owesEnd s.moves

/-- The host's duty at the end of a run (`70_reset_and_hazards.md` R240): it does not stop while the bus counts as held
("in ghost terms"), nor while an END is owed for an episode that a reset cut. -/
abbrev State.leavesBusReleased (s : State) : Prop := s.runOver → s.held = false ∧ s.owesEnd = false

/-- An END is owed whenever the bus counts as held, a BEGIN is in progress or a START is outstanding (which a reset may have
abandoned), in runs in which only the host acts: what ties the ghost bit to the duty (`10_state.md` R33,
`70_reset_and_hazards.md` R240). -/
abbrev State.heldIsOwed (s : State) : Prop :=
  s.benchQuiet = true
  ∧ (s.held = true ∨ s.inBegin = true ∨ outstandingPhase s.bcCtrl = some .start → s.owesEnd = true)

/-- BEGIN and WRITE: the commands that must have succeeded before a READ's byte means anything
(`70_reset_and_hazards.md` R242). -/
def preparesRead : CmdKind → Bool
  | .beginCmd => true
  | .writeCmd => true
  | .readCmd => false
  | .endCmd => false
  | .illegalCmd => false

/-- What a host may use of a response `r` to a READ (`70_reset_and_hazards.md` R242): its RDATA if the READ succeeded and
so did every BEGIN and WRITE among the responses `before` it, and otherwise no value. How far back `before` reaches is the
host's (log 29). -/
def usableData (before : List Response) (r : Response) : Option Byte :=
  if r.kind = .readCmd ∧ r.result = Config.resultOk
      ∧ ∀ q ∈ before, preparesRead q.kind = true → q.result = Config.resultOk then some r.rdata
  else none

/-- The answers of one attempt that ends in a transient status (`41_begin_and_retry.md` R138): arbitration lost at the
START step, or a START reported as transmitted and then an address not acknowledged or arbitration lost. -/
def transientAttempt (strict : Bool) (dir : Direction) (xs : List Answer) : Prop :=
  (∃ x, xs = [x] ∧ cond (maskStatus x.s) = .arbLost)
  ∨ (∃ x y, xs = [x, y] ∧ (cond (maskStatus x.s) = .startTx ∨ cond (maskStatus x.s) = .rstartTx)
      ∧ (isAddrNack strict dir (cond (maskStatus y.s)) = true ∨ cond (maskStatus y.s) = .arbLost))

/-- The answers of an attempt that ends in a terminal status, with the cause (`41_begin_and_retry.md` R133 case b, R135 case
b): an unexpected status at the START step, or one at the address step. -/
def terminalAttempt (strict : Bool) (dir : Direction) (cause : Cause) (xs : List Answer) : Prop :=
  (∃ x, xs = [x] ∧ cause = .startSeq ∧ cond (maskStatus x.s) ≠ .arbLost ∧ cond (maskStatus x.s) ≠ .startTx
      ∧ cond (maskStatus x.s) ≠ .rstartTx)
  ∨ (∃ x y, xs = [x, y] ∧ cause = .addrSeq
      ∧ (cond (maskStatus x.s) = .startTx ∨ cond (maskStatus x.s) = .rstartTx)
      ∧ isAddrNack strict dir (cond (maskStatus y.s)) = false ∧ cond (maskStatus y.s) ≠ .arbLost
      ∧ isAddrAck strict dir (cond (maskStatus y.s)) = false)

/-- The answers of an attempt that succeeds (`41_begin_and_retry.md` R141): a START reported as transmitted and then an
address acknowledged. -/
def ackedAttempt (strict : Bool) (dir : Direction) (xs : List Answer) : Prop :=
  ∃ x y, xs = [x, y] ∧ (cond (maskStatus x.s) = .startTx ∨ cond (maskStatus x.s) = .rstartTx)
    ∧ isAddrAck strict dir (cond (maskStatus y.s)) = true

end Sys2Proof.Machine
end

