-- ==== Sys2Proof/Certificates/Slice0/Obligations.lean ====
section
/-! DEFINITION. The statements for the provers. Literal bytes are those of the spec's tables: patterns 0xA4, 0x84,
0xC4, 0x94 (`30_encoding.md` R89, there from general knowledge, log 9) leave 0x24, 0x04, 0x44, 0x14 in BC.CTRL with
INT cleared, beside the old read-only bit 3 (the model's reading, log 12): a docstring that ends in "[logs 9, 12]" is
about them. `strict` is the setting of `ADDR_ACK_STRICT` (R92): every statement with it holds under both. -/

open Sys2Proof
open Sys2Proof.Machine

/-! ### Encoding -/

/-- Decode and encode agree on every instruction (`30_encoding.md` R82 to R88, R100). -/
def Obligations.DecodeAfterEncode : Prop := ∀ i : Instr, decode (encode i) = .ok i

/-- Every code that decodes has one meaning: its instruction encodes back to it (`30_encoding.md` R82, R87, R88). -/
def Obligations.EncodeAfterDecode : Prop := ∀ (c : Code) (i : Instr), decode c = .ok i → encode i = c

/-- A command word is illegal exactly when a reserved bit of its operation is set (`30_encoding.md` R87), and exactly
when it matches no row of the mask and match table (R82). -/
def Obligations.IllegalWordsAreThoseWithReservedBits : Prop :=
  ∀ w : CmdWord,
    ((∃ e, decodeCmd w = .error e) ↔
      (w.extractLsb' 17 2 = 0b01#2 ∧ w.extractLsb' 8 9 ≠ 0#9)
      ∨ (w.extractLsb' 17 2 = 0b10#2 ∧ w.extractLsb' 0 16 ≠ 0#16)
      ∨ (w.extractLsb' 17 2 = 0b11#2 ∧ w.extractLsb' 0 17 ≠ 0#17))
    ∧ ((∃ e, decodeCmd w = .error e) ↔ legalWord w = false)

/-- The assembler's syntax table and its examples (`30_encoding.md` R98). -/
def Obligations.AssemblerSyntax : Prop :=
  (∀ id sub v : Byte,
    encode (.beginTransaction id sub .write) = .cmd (0b00#2 ++ 0#1 ++ id ++ sub)
    ∧ encode (.beginTransaction id sub .read) = .cmd (0b00#2 ++ 1#1 ++ id ++ sub)
    ∧ encode (.writeByte v) = .cmd (0b01#2 ++ 0#1 ++ 0x00#8 ++ v)
    ∧ encode (.readByte true) = .cmd (0b10#2 ++ 1#1 ++ 0x00#8 ++ 0x00#8)
    ∧ encode (.readByte false) = .cmd (0b10#2 ++ 0#1 ++ 0x00#8 ++ 0x00#8)
    ∧ encode .endTransaction = .cmd (0b11#2 ++ 0#1 ++ 0x00#8 ++ 0x00#8))
  ∧ decodeCmd 0x04002#19 = .ok (.beginTransaction 0x40#8 0x02#8 .write)
  ∧ decodeCmd 0x14002#19 = .ok (.beginTransaction 0x40#8 0x02#8 .read)
  ∧ decodeCmd 0x19000#19 = .ok (.beginTransaction 0x90#8 0x00#8 .read)
  ∧ decodeCmd 0x20009#19 = .ok (.writeByte 0x09#8)
  ∧ decodeCmd 0x50000#19 = .ok (.readByte true)
  ∧ decodeCmd 0x40000#19 = .ok (.readByte false)
  ∧ decodeCmd 0x60000#19 = .ok .endTransaction

/-- The phase codes (`30_encoding.md` R88): all four are used, and no word of the host interface is a micro-operation.
-/
def Obligations.PhaseCodes : Prop :=
  (decodePhase 0b00#2 = .phStart ∧ decodePhase 0b01#2 = .phDataNoack ∧ decodePhase 0b10#2 = .phDataAck
    ∧ decodePhase 0b11#2 = .phStop)
  ∧ ∀ (w : CmdWord) (i : Instr), decodeCmd w = .ok i → i.isHostCommand = true

/-! ### Operands -/

/-- The address byte (`30_encoding.md` R93) in both forms the spec gives (`44_master_fsm.md` R186), and its examples. -/
def Obligations.AddressByteLayout : Prop :=
  (∀ (id sub : Byte) (dir : Direction),
    (addressByte id sub dir).extractLsb' 1 7 = id.extractLsb' 1 7 ||| sub.extractLsb' 1 7
    ∧ (addressByte id sub dir).getLsbD 0 = (dir == .read)
    ∧ addressByte id sub dir = ((id ||| sub) &&& 0xFE#8) ||| (if dir = .read then 0x01#8 else 0x00#8))
  ∧ addressByte 0x40#8 0x02#8 .write = 0x42#8 ∧ addressByte 0x40#8 0x02#8 .read = 0x43#8
  ∧ addressByte 0x90#8 0x00#8 .write = 0x90#8 ∧ addressByte 0x90#8 0x00#8 .read = 0x91#8

/-- The three properties of the control patterns that every rule relies on (`30_encoding.md` R89), and the table [logs
9, 12]. -/
def Obligations.ControlPatterns : Prop :=
  (pat .start = 0xA4#8 ∧ pat .dataNoack = 0x84#8 ∧ pat .dataAck = 0xC4#8 ∧ pat .stop = 0x94#8)
  ∧ (∀ p q : Phase, pat p = pat q → p = q)
  ∧ (∀ (p : Phase) (s : State), (s.writeCtrl (pat p)).intFlag = false ∧ (s.writeCtrl (pat p)).bcCtrl.getLsbD 0 = false
      ∧ lastPhase (s.writeCtrl (pat p)).bcCtrl = some p)

/-- The status code is the raw byte with its low three bits dropped (`30_encoding.md` R90). -/
def Obligations.StatusMask : Prop :=
  (∀ s : State, s.status = s.bcStatus &&& 0xF8#8)
  ∧ (∀ raw : Byte, (maskStatus raw).extractLsb' 0 3 = 0#3 ∧ ∃ k : Fin 32, maskStatus raw = BitVec.ofNat 8 (8 * k.val))
  ∧ (∀ a b : Byte, a.extractLsb' 3 5 = b.extractLsb' 3 5 → maskStatus a = maskStatus b)

/-- The classification is total and exact (`30_encoding.md` R91, R92): codes are distinct with low bits zero, and every
byte is its named row or `OTHER`. The numbers are from general knowledge (log 10). -/
def Obligations.StatusClassification : Prop :=
  (∀ c ∈ namedConds, ∀ d ∈ namedConds, statusCode c = statusCode d → c = d)
  ∧ (∀ c ∈ namedConds, (statusCode c).extractLsb' 0 3 = 0#3)
  ∧ (∀ st : Byte, (∃ c ∈ namedConds, statusCode c = st ∧ cond st = c)
      ∨ ((∀ c ∈ namedConds, statusCode c ≠ st) ∧ cond st = .other st))

/-- The `B_ADDR` column of the dispatch table for every condition, and the four cells that `ADDR_ACK_STRICT` changes
(`60_exceptions.md` R203, `30_encoding.md` R92). -/
def Obligations.AddressStepDispatch : Prop :=
  (∀ (dir : Direction) (c : Cond),
    addrVerdict false dir c =
      if c = .slawAck ∨ c = .slarAck then .acked
      else if c = .slawNack ∨ c = .slarNack ∨ c = .arbLost then .retry
      else .abort)
  ∧ (∀ (dir : Direction) (c : Cond),
      addrVerdict true dir c =
        if dir = .write ∧ (c = .slarAck ∨ c = .slarNack) ∨ dir = .read ∧ (c = .slawAck ∨ c = .slawNack) then .abort
        else addrVerdict false dir c)
  ∧ (∀ id sub dir, directionOf (addressByte id sub dir) = dir)

/-! ### The phase micro-operations -/

/-- PH_START completes in every state (`40_bus_phase_controller.md` R110, R111; log 14) [logs 9, 12]. -/
def Obligations.PhStartCompletes : Prop :=
  ∀ s : State, exec .phStart s = .next
    { s with
      bcCtrl := 0x24#8 ||| (s.bcCtrl &&& 0x08#8)
      hist := s.hist ++ [.req .start s.bcData]
      accesses := s.accesses ++ [.wr .ctrl 0xA4#8]
      bench := .holding }

/-- PH_DATA_NOACK completes in every state (`40_bus_phase_controller.md` R112; log 14) [logs 9, 12]. -/
def Obligations.PhDataNoackCompletes : Prop :=
  ∀ s : State, exec .phDataNoack s = .next
    { s with
      bcCtrl := 0x04#8 ||| (s.bcCtrl &&& 0x08#8)
      hist := s.hist ++ [.req .dataNoack s.bcData]
      accesses := s.accesses ++ [.wr .ctrl 0x84#8]
      bench := .holding }

/-- PH_DATA_ACK completes in every state (`40_bus_phase_controller.md` R113; log 14) [logs 9, 12]. -/
def Obligations.PhDataAckCompletes : Prop :=
  ∀ s : State, exec .phDataAck s = .next
    { s with
      bcCtrl := 0x44#8 ||| (s.bcCtrl &&& 0x08#8)
      hist := s.hist ++ [.req .dataAck s.bcData]
      accesses := s.accesses ++ [.wr .ctrl 0xC4#8]
      bench := .holding }

/-- PH_STOP completes in every state, with no hold, and its call returns 0x00 (`40_bus_phase_controller.md` R114; log
14). BC.STATUS and BC.DATA take the free values of log 8, whatever they are; with none listed they are untouched [logs
9, 12]. -/
def Obligations.PhStopCompletes : Prop :=
  (∀ s : State, exec .phStop s = .next
    { s with
      bcCtrl := 0x14#8 ||| (s.bcCtrl &&& 0x08#8)
      hist := s.hist ++ [.req .stop s.bcData]
      accesses := s.accesses ++ [.wr .ctrl 0x94#8]
      held := false
      bcStatus := (s.stopLeaves.head?.map Answer.s).getD s.bcStatus
      bcData := (s.stopLeaves.head?.map Answer.d).getD s.bcData
      stopLeaves := s.stopLeaves.tail
      bench := .idle })
  ∧ ∀ s : State, (phaseCall .stop s).map Prod.fst = some 0x00#8

/-- A direct `drive_phase` call runs by steps exactly as its command-level function says: one request, one answer, the
masked status returned whatever it is, by the step that reads it and in no field of the state; it hangs exactly when no
answer comes (`40_bus_phase_controller.md` R110, R114 to R117, `10_state.md` R27; the calls of `95_test_vectors.md` 2.4;
logs 2, 3, 14). -/
def Obligations.DirectPhaseCallRuns : Prop :=
  ∀ (strict : Bool) (s : State) (p : Phase),
    s.seq = .idle → s.resetIn = none → s.lateDue = false → s.bench = .presented p.toCode →
    match phaseCall p { s with bench := .idle } with
    | some (st, t) =>
      advanceN strict (1 + 2 * (s.answers.length - t.answers.length)) s = .next t ∧ t.bench = .idle
        ∧ (p = .stop → st = 0x00#8 ∧ t.answers = s.answers)
        ∧ (p ≠ .stop → ∃ x rest u, s.answers = x :: rest ∧ t.answers = rest ∧ st = x.s &&& 0xF8#8
          ∧ t.bcStatus = x.s ∧ t.bcData = x.d ∧ advanceN strict 2 s = .next u ∧ u.returnPhase = (st, t))
    | none => p ≠ .stop ∧ s.answers = [] ∧ advanceN strict 2 s = .fault .phaseNotCompleted

/-! ### Accepting a command -/

/-- BEGIN completes its accepting step in IDLE: latch, counter, START request, nothing else (`41_begin_and_retry.md`
R131, R132; row T1) [logs 9, 12]. -/
def Obligations.BeginAccepts : Prop :=
  ∀ (id sub : Byte) (dir : Direction) (s : State), s.seq = .idle →
    exec (.beginTransaction id sub dir) s = .next
      { s with
        seq := .bStart
        retry := 1#6
        ab := ((id ||| sub) &&& 0xFE#8) ||| (if dir = .read then 0x01#8 else 0x00#8)
        bcCtrl := 0x24#8 ||| (s.bcCtrl &&& 0x08#8)
        hist := s.hist ++ [.acc (.beginTransaction id sub dir), .req .start s.bcData]
        accesses := s.accesses ++ [.wr .ctrl 0xA4#8] }

/-- WRITE completes its accepting step in IDLE (`42_byte_transfer_and_end.md` R150; row T2) [logs 9, 12]. -/
def Obligations.WriteAccepts : Prop :=
  ∀ (v : Byte) (s : State), s.seq = .idle →
    exec (.writeByte v) s = .next
      { s with
        seq := .wData
        bcData := v
        bcCtrl := 0x04#8 ||| (s.bcCtrl &&& 0x08#8)
        hist := s.hist ++ [.acc (.writeByte v), .req .dataNoack v]
        accesses := s.accesses ++ [.wr .data v, .wr .ctrl 0x84#8] }

/-- READ completes its accepting step in IDLE, in both forms (`42_byte_transfer_and_end.md` R152; row T3) [logs 9,
12]. -/
def Obligations.ReadAccepts : Prop :=
  ∀ s : State, s.seq = .idle →
    exec (.readByte true) s = .next
      { s with
        seq := .rData
        ackreq := true
        bcCtrl := 0x44#8 ||| (s.bcCtrl &&& 0x08#8)
        hist := s.hist ++ [.acc (.readByte true), .req .dataAck s.bcData]
        accesses := s.accesses ++ [.wr .ctrl 0xC4#8] }
    ∧ exec (.readByte false) s = .next
      { s with
        seq := .rData
        ackreq := false
        bcCtrl := 0x04#8 ||| (s.bcCtrl &&& 0x08#8)
        hist := s.hist ++ [.acc (.readByte false), .req .dataNoack s.bcData]
        accesses := s.accesses ++ [.wr .ctrl 0x84#8] }

/-- END completes in IDLE as a whole: STOP requested, success answered, no answer consumed
(`42_byte_transfer_and_end.md` R155; row T4). BC.STATUS and BC.DATA take the free values of log 8, whatever they are
[logs 9, 12]. -/
def Obligations.EndCompletes : Prop :=
  ∀ s : State, s.seq = .idle →
    exec .endTransaction s = .next
      { s with
        result := 0x00#8
        bcCtrl := 0x14#8 ||| (s.bcCtrl &&& 0x08#8)
        hist := s.hist ++ [.acc .endTransaction, .req .stop s.bcData, .rsp .endCmd 0x00#8 s.rdata]
        accesses := s.accesses ++ [.wr .ctrl 0x94#8]
        held := false
        bcStatus := (s.stopLeaves.head?.map Answer.s).getD s.bcStatus
        bcData := (s.stopLeaves.head?.map Answer.d).getD s.bcData
        stopLeaves := s.stopLeaves.tail }

/-- A command presented while the CORE is busy is held as the host's next command, with no other effect
(`44_master_fsm.md` R192; log 15). -/
def Obligations.CommandHeldWhileBusy : Prop :=
  ∀ (i : Instr) (w : CmdWord) (s : State), s.seq ≠ .idle → encode i = .cmd w →
    exec i s = .next { s with hostCmds := w :: s.hostCmds }

/-- An illegal command word is answered with the failure result at the accept, with no access to the bus controller and
every other register unchanged (`60_exceptions.md` R205, `30_encoding.md` R87; row T5). -/
def Obligations.IllegalWordAnswered : Prop :=
  ∀ (strict : Bool) (s : State) (w : CmdWord) (rest : List CmdWord),
    s.ready → s.hostCmds = w :: rest → legalWord w = false →
    advance strict s = .next
      { s with
        hostCmds := rest
        result := 0xFF#8
        hist := s.hist ++ [.accIllegal w, .fail .illegal, .rsp .illegalCmd 0xFF#8 s.rdata] }

/-! ### Completing a phase of a command -/

/-- START completed: the three cases, with the address phase issued in the same step (`41_begin_and_retry.md` R133,
R134, and the gate R132, R137; rows T6 to T9) [logs 9, 12]. -/
def Obligations.StartCompleted : Prop :=
  ∀ (strict : Bool) (s : State), s.resetIn = none → s.seq = .bStart → s.intFlag = true →
    (cond (s.bcStatus &&& 0xF8#8) = .arbLost → s.retry.toNat < 50 →
      advance strict s = .next
        { s with
          retry := s.retry + 1#6
          bcCtrl := 0x24#8 ||| (s.bcCtrl &&& 0x08#8)
          hist := s.hist ++ [.req .start s.bcData]
          accesses := s.accesses ++ [.rd .ctrl s.bcCtrl, .rd .status s.bcStatus, .wr .ctrl 0xA4#8] })
    ∧ (cond (s.bcStatus &&& 0xF8#8) = .arbLost → 50 ≤ s.retry.toNat →
      advance strict s = .next
        { s with
          seq := .idle
          result := 0xFF#8
          hist := s.hist ++ [.fail .budget, .rsp .beginCmd 0xFF#8 s.rdata]
          accesses := s.accesses ++ [.rd .ctrl s.bcCtrl, .rd .status s.bcStatus] })
    ∧ (cond (s.bcStatus &&& 0xF8#8) ≠ .arbLost → cond (s.bcStatus &&& 0xF8#8) ≠ .startTx →
        cond (s.bcStatus &&& 0xF8#8) ≠ .rstartTx →
      advance strict s = .next
        { s with
          seq := .idle
          result := 0xFF#8
          hist := s.hist ++ [.fail .startSeq, .rsp .beginCmd 0xFF#8 s.rdata]
          accesses := s.accesses ++ [.rd .ctrl s.bcCtrl, .rd .status s.bcStatus] })
    ∧ (cond (s.bcStatus &&& 0xF8#8) = .startTx ∨ cond (s.bcStatus &&& 0xF8#8) = .rstartTx →
      advance strict s = .next
        { s with
          seq := .bAddr
          held := true
          bcData := s.ab
          bcCtrl := 0x04#8 ||| (s.bcCtrl &&& 0x08#8)
          hist := s.hist ++ [.req .dataNoack s.ab]
          accesses := s.accesses ++
            [.rd .ctrl s.bcCtrl, .rd .status s.bcStatus, .wr .data s.ab, .wr .ctrl 0x84#8] })

/-- Address phase completed: the three cases in the order of the rule, under both settings of `ADDR_ACK_STRICT`
(`41_begin_and_retry.md` R135, R136, R137; rows T10 to T13) [logs 9, 12]. -/
def Obligations.AddressCompleted : Prop :=
  ∀ (strict : Bool) (s : State), s.resetIn = none → s.seq = .bAddr → s.intFlag = true →
    (isAddrNack strict (directionOf s.ab) (cond (s.bcStatus &&& 0xF8#8)) = true
        ∨ cond (s.bcStatus &&& 0xF8#8) = .arbLost → s.retry.toNat < 50 →
      advance strict s = .next
        { s with
          seq := .bStart
          retry := s.retry + 1#6
          bcCtrl := 0x24#8 ||| (s.bcCtrl &&& 0x08#8)
          hist := s.hist ++ [.req .start s.bcData]
          accesses := s.accesses ++ [.rd .ctrl s.bcCtrl, .rd .status s.bcStatus, .wr .ctrl 0xA4#8] })
    ∧ (isAddrNack strict (directionOf s.ab) (cond (s.bcStatus &&& 0xF8#8)) = true
        ∨ cond (s.bcStatus &&& 0xF8#8) = .arbLost → 50 ≤ s.retry.toNat →
      advance strict s = .next
        { s with
          seq := .idle
          result := 0xFF#8
          hist := s.hist ++ [.fail .budget, .rsp .beginCmd 0xFF#8 s.rdata]
          accesses := s.accesses ++ [.rd .ctrl s.bcCtrl, .rd .status s.bcStatus] })
    ∧ (isAddrNack strict (directionOf s.ab) (cond (s.bcStatus &&& 0xF8#8)) = false →
        cond (s.bcStatus &&& 0xF8#8) ≠ .arbLost →
        isAddrAck strict (directionOf s.ab) (cond (s.bcStatus &&& 0xF8#8)) = false →
      advance strict s = .next
        { s with
          seq := .idle
          result := 0xFF#8
          hist := s.hist ++ [.fail .addrSeq, .rsp .beginCmd 0xFF#8 s.rdata]
          accesses := s.accesses ++ [.rd .ctrl s.bcCtrl, .rd .status s.bcStatus] })
    ∧ (isAddrAck strict (directionOf s.ab) (cond (s.bcStatus &&& 0xF8#8)) = true →
      advance strict s = .next
        { s with
          seq := .idle
          result := 0x00#8
          hist := s.hist ++ [.rsp .beginCmd 0x00#8 s.rdata]
          accesses := s.accesses ++ [.rd .ctrl s.bcCtrl, .rd .status s.bcStatus] })

/-- WRITE completed (`42_byte_transfer_and_end.md` R150; rows T14, T15). -/
def Obligations.WriteCompleted : Prop :=
  ∀ (strict : Bool) (s : State), s.resetIn = none → s.seq = .wData → s.intFlag = true →
    (cond (s.bcStatus &&& 0xF8#8) = .dataTxAck →
      advance strict s = .next
        { s with
          seq := .idle
          result := 0x00#8
          hist := s.hist ++ [.rsp .writeCmd 0x00#8 s.rdata]
          accesses := s.accesses ++ [.rd .ctrl s.bcCtrl, .rd .status s.bcStatus] })
    ∧ (cond (s.bcStatus &&& 0xF8#8) ≠ .dataTxAck →
      advance strict s = .next
        { s with
          seq := .idle
          result := 0xFF#8
          hist := s.hist ++ [.fail .dataWrite, .rsp .writeCmd 0xFF#8 s.rdata]
          accesses := s.accesses ++ [.rd .ctrl s.bcCtrl, .rd .status s.bcStatus] })

/-- READ completed: success on the exact matching status only; a failed READ neither reads BC.DATA nor changes RDATA
(`42_byte_transfer_and_end.md` R152, R153; rows T16, T17). -/
def Obligations.ReadCompleted : Prop :=
  ∀ (strict : Bool) (s : State), s.resetIn = none → s.seq = .rData → s.intFlag = true →
    (cond (s.bcStatus &&& 0xF8#8) = (if s.ackreq then .dataRxAck else .dataRxNack) →
      advance strict s = .next
        { s with
          seq := .idle
          result := 0x00#8
          rdata := s.bcData
          hist := s.hist ++ [.rsp .readCmd 0x00#8 s.bcData]
          accesses := s.accesses ++ [.rd .ctrl s.bcCtrl, .rd .status s.bcStatus, .rd .data s.bcData] })
    ∧ (cond (s.bcStatus &&& 0xF8#8) ≠ (if s.ackreq then .dataRxAck else .dataRxNack) →
      advance strict s = .next
        { s with
          seq := .idle
          result := 0xFF#8
          hist := s.hist ++ [.fail .dataRead, .rsp .readCmd 0xFF#8 s.rdata]
          accesses := s.accesses ++ [.rd .ctrl s.bcCtrl, .rd .status s.bcStatus] })

/-- The byte delivered by a successful READ is the `d` of the answer that completed its phase; on any other status RDATA
stays and BC.DATA is not read (`42_byte_transfer_and_end.md` R153). The answers as a list, one for each hold and so two
steps, are log 2; that the access list holds one poll for the hold is log 17. -/
def Obligations.ReadDeliversAnswerByte : Prop :=
  ∀ (strict : Bool) (s : State) (x : Answer) (rest : List Answer),
    s.resetIn = none → s.seq = .rData → s.intFlag = false → lastPhase s.bcCtrl = some (readPhase s.ackreq) →
    s.answers = x :: rest →
    ∃ t, advanceN strict 2 s = .next t ∧ t.seq = .idle ∧ t.answers = rest ∧ t.bcData = x.d
      ∧ (cond (x.s &&& 0xF8#8) = (if s.ackreq then .dataRxAck else .dataRxNack) →
          t.result = 0x00#8 ∧ t.rdata = x.d
          ∧ t.accesses = s.accesses ++ [.rd .ctrl t.bcCtrl, .rd .status x.s, .rd .data x.d])
      ∧ (cond (x.s &&& 0xF8#8) ≠ (if s.ackreq then .dataRxAck else .dataRxNack) →
          t.result = 0xFF#8 ∧ t.rdata = s.rdata
          ∧ t.accesses = s.accesses ++ [.rd .ctrl t.bcCtrl, .rd .status x.s])

/-- The budget: the attempt gate at 50 fails with no further access to the bus controller, below 50 it never does, and
the accept of BEGIN never reaches the failure (`41_begin_and_retry.md` R137). -/
def Obligations.BudgetExhausted : Prop :=
  (∀ s : State, 50 ≤ s.retry.toNat →
    s.attemptGate =
      { s with
        seq := .idle
        result := 0xFF#8
        hist := s.hist ++ [.fail .budget, .rsp .beginCmd 0xFF#8 s.rdata] })
  ∧ (∀ (strict : Bool) (s t : State), s.resetIn = none → advance strict s = .next t →
      (∃ new, t.hist = s.hist ++ new ∧ Event.fail .budget ∈ new) →
      50 ≤ s.retry.toNat ∧ s.intFlag = true
      ∧ (s.seq = .bStart ∧ cond s.status = .arbLost
        ∨ s.seq = .bAddr ∧ addrVerdict strict (directionOf s.ab) (cond s.status) = .retry))

/-! ### The bus controller and the hang -/

/-- The completion step of the bus controller, for any answer: while a command or a direct call waits, and in IDLE for a
phase that a reset abandoned, where the host's next command may come first or not at all (`40_bus_phase_controller.md`
R118; row E1; logs 2, 14, 16). A reset that does not reset the bus controller leaves its phase outstanding, and this step
then completes it, without a response (`70_reset_and_hazards.md` R230, R231). A START that completes so with START_TX or
RSTART_TX sets the ghost `held` (`10_state.md` R33; in this step: log 31). -/
def Obligations.BusControllerCompletes : Prop :=
  (∀ (strict : Bool) (s : State) (p : Phase) (x : Answer) (rest : List Answer),
    s.resetIn = none → (s.waiting ∨ s.seq = .idle ∧ s.intFlag = false ∧ s.bench = .holding) →
    lastPhase s.bcCtrl = some p → p ≠ .stop → s.answers = x :: rest →
    advance strict s = .next
      { s with
        bcStatus := x.s
        bcData := x.d
        bcCtrl := s.bcCtrl ||| 0x80#8
        answers := rest
        hist := s.hist ++ [.cpl p x.s x.d] })
  ∧ (∀ (strict : Bool) (s : State) (p : Phase) (x : Answer) (rest : List Answer) (k : Nat),
    s.resetIn = none → s.seq = .idle → s.intFlag = false → s.bench ≠ .holding →
    s.lateAt = some k → s.hostCmds.length ≤ k →
    lastPhase s.bcCtrl = some p → p ≠ .stop → s.answers = x :: rest →
    advance strict s = .next
      { s with
        bcStatus := x.s
        bcData := x.d
        bcCtrl := s.bcCtrl ||| 0x80#8
        answers := rest
        hist := s.hist ++ [.cpl p x.s x.d]
        held := if p = .start ∧ (cond (x.s &&& 0xF8#8) = .startTx ∨ cond (x.s &&& 0xF8#8) = .rstartTx) then true
          else s.held })
  ∧ (∀ (strict : Bool) (s : State) (u : ResetLeaves) (p : Phase) (x : Answer) (rest : List Answer),
    s.resetIn = some u → u.bc = none → s.intFlag = false → lastPhase s.bcCtrl = some p → p ≠ .stop →
    s.answers = x :: rest →
    (∀ k, s.lateAt = some k → s.hostCmds.length ≤ k →
      ∃ t, advanceN strict 2 s = .next t ∧ t.seq = .idle ∧ t.hist = s.hist ++ [.cpl p x.s x.d]
        ∧ t.bcStatus = x.s ∧ t.bcData = x.d ∧ t.bcCtrl = s.bcCtrl ||| 0x80#8 ∧ t.answers = rest
        ∧ t.result = u.result ∧ t.rdata = u.rdata ∧ t.accesses = s.accesses ∧ t.hostCmds = s.hostCmds
        ∧ (t.held = true ↔
          p = .start ∧ (cond (x.s &&& 0xF8#8) = .startTx ∨ cond (x.s &&& 0xF8#8) = .rstartTx)))
    ∧ (s.lateAt = none → ∃ t, advance strict s = .next t ∧ t.ready ∧ t.bcCtrl = s.bcCtrl ∧ t.answers = s.answers))

/-- After a STOP pattern the bus controller has no completion step (`40_bus_phase_controller.md` R119). -/
def Obligations.NoCompletionAfterStop : Prop :=
  (∀ s : State, lastPhase s.bcCtrl = some .stop → s.busComplete = none)
  ∧ (∀ s : State, (s.requestPhase .stop).intFlag = false ∧ lastPhase (s.requestPhase .stop).bcCtrl = some .stop)

/-- A hang is stuck, has no failure result, and only a reset leaves it (`60_exceptions.md` R212,
`40_bus_phase_controller.md` R115; as a named fault, log 3). -/
def Obligations.HangIsStuckUntilReset : Prop :=
  ∀ (strict : Bool) (s : State), s.hung →
    (s.resetIn = none → advance strict s = .fault .phaseNotCompleted)
    ∧ (∀ u, s.resetIn = some u → ∃ t, advance strict s = .next t ∧ t.seq = .idle)

/-- The end of a run (`44_master_fsm.md` R197): idle with no command left, and only then (as a named fault, log 4; a
late completion of the bus controller that is due comes first, log 16). -/
def Obligations.EndOfRun : Prop :=
  ∀ (strict : Bool) (s : State), s.resetIn = none → s.benchQuiet = true → s.lateDue = false →
    (advance strict s = .fault .noCommand ↔ s.runOver)

/-! ### Steps run decoded instructions -/

/-- A step with a legal command word presented to the idle CORE is exec of the decoded instruction, the word taken from
the host's list (`44_master_fsm.md` R192). -/
def Obligations.StepRunsDecodedCommand : Prop :=
  ∀ (s : State) (w : CmdWord) (rest : List CmdWord) (i : Instr),
    s.ready → s.hostCmds = w :: rest → decodeCmd w = .ok i → step s = exec i { s with hostCmds := rest }

/-- An instruction placed by `withFetchWord` is the one the next step runs (log 14, 19), for every word that decodes. -/
def Obligations.PlacedInstructionRunsNext : Prop :=
  ∀ (s : State) (nbits w : Nat) (i : Instr), decodeTableWord nbits w = some i →
    step (s.withFetchWord nbits w) = exec i { s with seq := .idle, resetIn := none, lateAt := none, bench := .idle }

/-! ### Reset -/

/-- What reset leaves, as far as the spec gives it (`10_state.md` R36, `44_master_fsm.md` R191), that the CORE can accept a
command, and that the bus controller is disabled (`10_state.md` R37; as the bit EN: log 32). -/
def Obligations.ResetState : Prop :=
  State.reset.seq = .idle ∧ State.reset.retry = 0#6 ∧ State.reset.held = false ∧ State.reset.hist = []
  ∧ State.reset.ready ∧ State.reset.bcCtrl.getLsbD 2 = false ∧ State.reset.busComplete = none

/-- The reset event in any state: the given values, nothing written to BC.CTRL, no STOP, no response, and a bus
controller that is not reset with the CORE keeps its registers; the registers the spec leaves unspecified take the
free values of the event, whatever they are (`70_reset_and_hazards.md` R230, R231; log 7), but that a bus controller
that is reset comes up disabled, with no phase to complete (`10_state.md` R37; as the bit EN: log 32). That the host's
remaining commands, the answers, the values after STOP, the time of a late completion, the history and the access list
are kept is the model's choice (log 18). -/
def Obligations.ResetEvent : Prop :=
  ∀ (strict : Bool) (s : State) (u : ResetLeaves), s.resetIn = some u →
    ∃ t, advance strict s = .next t
      ∧ t.seq = .idle ∧ t.retry = 0#6 ∧ t.held = false
      ∧ t.ab = u.ab ∧ t.ackreq = u.ackreq ∧ t.result = u.result ∧ t.rdata = u.rdata
      ∧ t.hist = s.hist ∧ t.accesses = s.accesses ∧ t.hostCmds = s.hostCmds ∧ t.answers = s.answers
      ∧ t.stopLeaves = s.stopLeaves ∧ t.lateAt = s.lateAt ∧ t.resetIn = none ∧ t.bench = .idle
      ∧ (u.bc = none → t.bcCtrl = s.bcCtrl ∧ t.bcStatus = s.bcStatus ∧ t.bcData = s.bcData)
      ∧ (∀ r, u.bc = some r →
          t.bcCtrl = r.ctrl &&& 0xFB#8 ∧ t.bcStatus = r.status ∧ t.bcData = r.data ∧ t.busComplete = none)

/-- The platform's boot write puts the prescaler in BC.STATUS bits 2:0 and nothing else changes, and the CORE never
sees it (`70_reset_and_hazards.md` R235, `10_state.md` R29). -/
def Obligations.BootPrescalerMasked : Prop :=
  ∀ (s : State) (ps : BitVec 3),
    (s.configureBusSpeed ps).bcStatus.extractLsb' 0 3 = ps
    ∧ (s.configureBusSpeed ps).bcStatus.extractLsb' 3 5 = s.bcStatus.extractLsb' 3 5
    ∧ (s.configureBusSpeed ps).status = s.status
    ∧ s.configureBusSpeed ps = { s with bcStatus := (s.configureBusSpeed ps).bcStatus }

/-! ### The whole machine -/

/-- Every step keeps the invariant of the machine, from every state that meets it, under both settings
(`10_state.md` R22, `41_begin_and_retry.md` R132 to R134, `40_bus_phase_controller.md` R121). -/
def Obligations.EveryStepKeepsInv : Prop :=
  (∀ s t : State, s.Inv → step s = .next t → t.Inv)
  ∧ (∀ (strict : Bool) (s t : State), s.Inv → advance strict s = .next t → t.Inv)

/-- The reset state meets the invariant. -/
def Obligations.ResetMeetsInv : Prop := State.reset.Inv

/-- In a state that meets the invariant no waiting state is stuck for want of a completion step: given an answer, the
bus controller completes the phase (`44_master_fsm.md` R192, R195, R196). -/
def Obligations.WaitingStatesProgress : Prop :=
  ∀ (strict : Bool) (s : State), s.Inv → s.resetIn = none → s.seq ≠ .idle → (s.intFlag = false → s.answers ≠ []) →
    ∃ t, advance strict s = .next t

/-- Every change of the sequencer is a row of the transition table (`44_master_fsm.md` R187, R193). -/
def Obligations.SequencerTransitions : Prop :=
  ∀ (strict : Bool) (s t : State), s.resetIn = none → advance strict s = .next t →
    (s.seq = .idle → t.seq = .idle ∨ t.seq = .bStart ∨ t.seq = .wData ∨ t.seq = .rData)
    ∧ (s.seq = .bStart → t.seq = .bStart ∨ t.seq = .bAddr ∨ t.seq = .idle)
    ∧ (s.seq = .bAddr → t.seq = .bAddr ∨ t.seq = .bStart ∨ t.seq = .idle)
    ∧ (s.seq = .wData → t.seq = .wData ∨ t.seq = .idle)
    ∧ (s.seq = .rData → t.seq = .rData ∨ t.seq = .idle)
    ∧ (s.seq ≠ .idle → s.intFlag = false → t.seq = s.seq)

/-- Only END requests a STOP, or PH_STOP driven directly (`42_byte_transfer_and_end.md` R156). -/
def Obligations.OnlyEndRequestsStop : Prop :=
  ∀ (strict : Bool) (s t : State) (d : Byte), advance strict s = .next t →
    (∃ new, t.hist = s.hist ++ new ∧ Event.req .stop d ∈ new) →
    s.resetIn = none ∧ s.seq = .idle
    ∧ (s.bench = .presented 0b11#2 ∨ s.benchQuiet = true ∧ ∃ rest, s.hostCmds = 0x60000#19 :: rest)

/-- No path of BEGIN requests the STOP phase: not at the accept, not in a step of its two waiting states, and not over
the whole command, however it ends (`41_begin_and_retry.md` R142). -/
def Obligations.BeginRequestsNoStop : Prop :=
  (∀ (id sub : Byte) (dir : Direction) (s t : State), exec (.beginTransaction id sub dir) s = .next t →
    stopRequests t.hist = stopRequests s.hist)
  ∧ (∀ (strict : Bool) (s t : State), s.inBegin = true → advance strict s = .next t →
      stopRequests t.hist = stopRequests s.hist)
  ∧ (∀ (strict : Bool) (id sub : Byte) (dir : Direction) (s t : State),
      whole strict (.beginTransaction id sub dir) s = some t → stopRequests t.hist = stopRequests s.hist)

/-- WRITE, READ and END never touch the retry counter, nor the host's view of it, WRITE requests one DATA phase and no
START, and a data byte not acknowledged is a terminal failure (`42_byte_transfer_and_end.md` R151). -/
def Obligations.TransfersLeaveRetryAlone : Prop :=
  (∀ (strict : Bool) (i : Instr) (s t : State), (∃ v, i = .writeByte v) ∨ (∃ a, i = .readByte a) ∨ i = .endTransaction →
    (whole strict i s = some t → t.retry = s.retry ∧ t.stat.extractLsb' 0 6 = s.stat.extractLsb' 0 6)
      ∧ (exec i s = .next t → t.retry = s.retry))
  ∧ (∀ (strict : Bool) (s t : State), s.seq = .wData ∨ s.seq = .rData → s.resetIn = none →
      advance strict s = .next t → t.retry = s.retry)
  ∧ (∀ (strict : Bool) (v : Byte) (s t : State) (x : Answer) (rest : List Answer),
      whole strict (.writeByte v) s = some t → s.answers = x :: rest →
      (∃ new, t.hist = s.hist ++ new ∧ dataNoackRequests new = 1 ∧ startRequests new = 0)
      ∧ (cond (x.s &&& 0xF8#8) = .dataTxNack → t.result = 0xFF#8))

/-- RDATA changes only in a successful READ, and to the byte in BC.DATA (`10_state.md` R26). -/
def Obligations.RdataWrittenOnlyByRead : Prop :=
  ∀ (strict : Bool) (s t : State), s.resetIn = none → advance strict s = .next t → t.rdata ≠ s.rdata →
    s.seq = .rData ∧ s.intFlag = true ∧ cond s.status = wantedCond s.ackreq ∧ t.rdata = s.bcData
    ∧ t.result = 0x00#8 ∧ t.seq = .idle

/-- RESULT is written exactly when a response is delivered, takes only the two values, and the response carries RESULT
and RDATA as they stand after the step (`10_state.md` R25, `30_encoding.md` R95, R97). -/
def Obligations.ResultWrittenWithResponse : Prop :=
  ∀ (strict : Bool) (s t : State), s.resetIn = none → advance strict s = .next t →
    ∃ new, t.hist = s.hist ++ new ∧
      (responses new = [] ∧ t.result = s.result
      ∨ ∃ k, responses new = [{ kind := k, result := t.result, rdata := t.rdata }]
          ∧ (t.result = 0x00#8 ∨ t.result = 0xFF#8) ∧ t.seq = .idle)

/-- A failure is precise: it ends the failing command, with one response, and no other. It leaves RESULT_FAIL and
IDLE; every other register, the bus controller, its answers and the host's other commands stay as they were, and no
STOP is requested (`60_exceptions.md` R207). An illegal word is itself the command that fails: it alone leaves the
host's list. -/
def Obligations.FailureIsPrecise : Prop :=
  ∀ (strict : Bool) (s t : State) (c : Cause) (new : List Event), s.resetIn = none → advance strict s = .next t →
    t.hist = s.hist ++ new → Event.fail c ∈ new →
    t.result = 0xFF#8 ∧ t.seq = .idle ∧ t.retry = s.retry ∧ t.rdata = s.rdata ∧ t.ab = s.ab ∧ t.ackreq = s.ackreq
    ∧ t.bcCtrl = s.bcCtrl ∧ t.bcStatus = s.bcStatus ∧ t.bcData = s.bcData ∧ t.held = s.held
    ∧ t.answers = s.answers ∧ t.stopLeaves = s.stopLeaves ∧ t.bench = s.bench ∧ t.lateAt = s.lateAt ∧ t.resetIn = none
    ∧ (s.seq ≠ .idle ∧ c ≠ .illegal ∧ t.hostCmds = s.hostCmds
      ∨ s.seq = .idle ∧ c = .illegal ∧ ∃ w, legalWord w = false ∧ s.hostCmds = w :: t.hostCmds)
    ∧ (∃ k, responses new = [{ kind := k, result := 0xFF#8, rdata := s.rdata }])
    ∧ stopRequests new = 0

/-- Access rights (`20_memory.md` R52, `44_master_fsm.md` R188, `60_exceptions.md` R206): the CORE never writes
BC.STATUS, writes only the four patterns to BC.CTRL, and reads BC.DATA only in a successful READ [logs 9, 12]. -/
def Obligations.AccessRights : Prop :=
  ∀ (strict : Bool) (s t : State), advance strict s = .next t →
    ∃ new, t.accesses = s.accesses ++ new
      ∧ (∀ v, Access.wr .status v ∉ new)
      ∧ (∀ v, Access.wr .ctrl v ∈ new → v = 0xA4#8 ∨ v = 0x84#8 ∨ v = 0xC4#8 ∨ v = 0x94#8)
      ∧ (∀ v, Access.rd .data v ∈ new →
          s.seq = .rData ∧ s.intFlag = true ∧ cond s.status = wantedCond s.ackreq ∧ v = s.bcData ∧ t.rdata = v)

/-- The access sequence of WRITE, READ and END as whole commands (`20_memory.md` R58; log 17) [logs 9, 12]. -/
def Obligations.AccessOrderOfCommands : Prop :=
  (∀ (strict : Bool) (v : Byte) (s t : State), whole strict (.writeByte v) s = some t →
    ∃ a b, t.accesses = s.accesses ++ [.wr .data v, .wr .ctrl 0x84#8, .rd .ctrl a, .rd .status b])
  ∧ (∀ (strict : Bool) (q : Bool) (s t : State), whole strict (.readByte q) s = some t →
    ∃ a b, t.accesses = s.accesses ++
      ([.wr .ctrl (if q then 0xC4#8 else 0x84#8), .rd .ctrl a, .rd .status b]
        ++ if t.result = 0x00#8 then [.rd .data t.rdata] else []))
  ∧ (∀ (strict : Bool) (s t : State), whole strict .endTransaction s = some t →
    t.accesses = s.accesses ++ [.wr .ctrl 0x94#8])

/-- Nothing the host does after the accepting step changes the command in progress (`20_memory.md` R62). -/
def Obligations.HostCannotDisturbCommand : Prop :=
  ∀ (strict : Bool) (s : State) (ws : List CmdWord), s.seq ≠ .idle →
    (∀ t, advance strict s = .next t → advance strict { s with hostCmds := ws } = .next { t with hostCmds := ws })
    ∧ (∀ r, advance strict s = .fault r → advance strict { s with hostCmds := ws } = .fault r)

/-- No rule reads the ghost `held`, and the result of one command never changes how the next is executed: steps from
states that differ in `held` and RESULT alone end in states that differ in those alone (`10_state.md` R33,
`44_master_fsm.md` R187, `42_byte_transfer_and_end.md` R157). -/
def Obligations.HeldAndResultSteerNothing : Prop :=
  ∀ (strict : Bool) (s : State) (b : Bool) (v : Byte),
    (∀ t, advance strict s = .next t →
      ∃ b' v', advance strict { s with held := b, result := v } = .next { t with held := b', result := v' })
    ∧ (∀ r, advance strict s = .fault r → advance strict { s with held := b, result := v } = .fault r)

/-- The host's status word (`10_state.md` R34). -/
def Obligations.StatusWord : Prop :=
  ∀ s : State, s.stat.getLsbD 7 = (s.seq != .idle) ∧ s.stat.getLsbD 6 = false ∧ s.stat.extractLsb' 0 6 = s.retry

/-! ### Whole commands -/

/-- The small-step machine and the command-level function agree on every command word, the illegal ones among them:
taking the same answers in order they reach the same state, result and unused answers, and they hang together, the
hang being the fault of log 3 (`44_master_fsm.md` R194, `60_exceptions.md` R205; `41_begin_and_retry.md` says that a
model "may implement either and should prove them equal"; logs 1, 2). -/
def Obligations.StepsAgreeWithCommands : Prop :=
  ∀ (strict : Bool) (s : State) (w : CmdWord) (rest : List CmdWord),
    s.ready → s.hostCmds = w :: rest →
    match commandLevel strict { s with hostCmds := rest } w s.answers with
    | some (t, result, unused) =>
      t.result = result ∧ t.answers = unused ∧ unused.length ≤ s.answers.length
        ∧ advanceN strict (1 + 2 * (s.answers.length - unused.length)) s = .next t
    | none => advanceN strict (2 + 2 * s.answers.length) s = .fault .phaseNotCompleted

/-- BEGIN succeeds on the Nth attempt after N-1 transient ones, for every N up to 50, and consumes exactly N attempts
(`41_begin_and_retry.md` R141; the answers as a list, log 2). -/
def Obligations.BeginSucceedsOnNthAttempt : Prop :=
  ∀ (strict : Bool) (id sub : Byte) (dir : Direction) (s : State) (cmds : List CmdWord)
    (failed : List (List Answer)) (last rest : List Answer),
    s.ready → s.hostCmds = beginWord id sub dir :: cmds →
    failed.length < 50 → (∀ a ∈ failed, transientAttempt strict dir a) → ackedAttempt strict dir last →
    s.answers = failed.flatten ++ last ++ rest →
    ∃ t new, advanceN strict (1 + 2 * (failed.flatten.length + last.length)) s = .next t
      ∧ t.seq = .idle ∧ t.result = 0x00#8 ∧ t.retry.toNat = failed.length + 1 ∧ t.held = true
      ∧ t.rdata = s.rdata ∧ t.answers = rest ∧ t.hostCmds = cmds ∧ t.hist = s.hist ++ new
      ∧ startRequests new = failed.length + 1 ∧ stopRequests new = 0

/-- Fifty transient attempts, arbitration losses among them, make exactly 50 STARTs and then the failure; a 51st START
is never requested (`41_begin_and_retry.md` R137, R140, R141; the answers as a list, log 2). -/
def Obligations.BeginFailsAfterFiftyAttempts : Prop :=
  ∀ (strict : Bool) (id sub : Byte) (dir : Direction) (s : State) (cmds : List CmdWord)
    (failed : List (List Answer)) (rest : List Answer),
    s.ready → s.hostCmds = beginWord id sub dir :: cmds →
    failed.length = 50 → (∀ a ∈ failed, transientAttempt strict dir a) → s.answers = failed.flatten ++ rest →
    ∃ t new, advanceN strict (1 + 2 * failed.flatten.length) s = .next t
      ∧ t.seq = .idle ∧ t.result = 0xFF#8 ∧ t.retry = 50#6 ∧ t.rdata = s.rdata ∧ t.answers = rest
      ∧ t.hist = s.hist ++ new ∧ startRequests new = 50 ∧ stopRequests new = 0

/-- BEGIN ends whenever the bus controller completes its phases (BC_COMPLETES for 100 phases), after 1 to 100 answers,
and `retry` then counts the START phases it requested (`41_begin_and_retry.md` R140, R141,
`42_byte_transfer_and_end.md` R158, `44_master_fsm.md` R196). -/
def Obligations.BeginTerminatesAndCounts : Prop :=
  (∀ (strict : Bool) (id sub : Byte) (dir : Direction) (s : State), s.bcCompletes 100 →
    ∃ t, whole strict (.beginTransaction id sub dir) s = some t)
  ∧ (∀ (strict : Bool) (id sub : Byte) (dir : Direction) (s t : State),
      whole strict (.beginTransaction id sub dir) s = some t →
      ∃ new n, t.hist = s.hist ++ new ∧ s.answers.length = t.answers.length + n
        ∧ n = startRequests new + dataNoackRequests new
        ∧ startRequests new = t.retry.toNat ∧ 1 ≤ startRequests new ∧ startRequests new ≤ 50
        ∧ dataNoackRequests new ≤ startRequests new)

/-- WRITE and READ consume exactly one answer and END none; WRITE and READ hang exactly when there is none
(`42_byte_transfer_and_end.md` R158). -/
def Obligations.AnswersConsumed : Prop :=
  (∀ (strict : Bool) (v : Byte) (s : State),
    (whole strict (.writeByte v) s = none ↔ s.answers = [])
    ∧ ∀ t, whole strict (.writeByte v) s = some t → s.answers.length = t.answers.length + 1)
  ∧ (∀ (strict : Bool) (q : Bool) (s : State),
    (whole strict (.readByte q) s = none ↔ s.answers = [])
    ∧ ∀ t, whole strict (.readByte q) s = some t → s.answers.length = t.answers.length + 1)
  ∧ (∀ (strict : Bool) (s : State), ∃ t, whole strict .endTransaction s = some t ∧ t.answers = s.answers)

/-! ### Pseudo-instructions -/

/-- The words of the four pseudo-instructions (`43_driver_sequences.md` R171 to R174). -/
def Obligations.DriverWords : Prop :=
  (∀ reg val : Byte,
    (Driver.expWrite reg val).words =
      [0x04002#19, 0x20000#19 + reg.setWidth 19, 0x20000#19 + val.setWidth 19, 0x60000#19]
    ∧ (Driver.expRead reg).words =
      [0x04002#19, 0x20000#19 + reg.setWidth 19, 0x60000#19, 0x14002#19, 0x40000#19, 0x60000#19])
  ∧ Driver.tsStart.words = [0x09000#19, 0x200EE#19, 0x60000#19]
  ∧ Driver.tsRead.words = [0x09000#19, 0x200AA#19, 0x19000#19, 0x40000#19, 0x60000#19]

/-- The host's obligation: every BEGIN is followed, before the end of the program, by an END with no reset between. The
four expansions meet it, hold only legal words and END once per episode. A program meets it exactly when it ends with no
END owed and no reset in it falls inside an episode. On the machine every step keeps it, a run that kept it ends with
no END owed and the bus not held, and a reset inside an episode breaks it: the ghost bit is cleared and the END is still
owed (`43_driver_sequences.md` R178, `42_byte_transfer_and_end.md` R156, `70_reset_and_hazards.md` R231, R240, R241; that
the history survives a reset is log 18, the list of commands and the pending reset are logs 7 and 19). -/
def Obligations.DriversCloseEpisodes : Prop :=
  (∀ d : Driver, closesEpisodes false d.commands = true ∧ endsOncePerEpisode false d.commands = true
    ∧ d.commands.getLast? = some .endTransaction ∧ legalProgram d.words = true)
  ∧ (∀ (owed : Bool) (ms : List Move), pairsStartStop owed ms = true ↔
      owedBy owed ms = false ∧ ∀ pre post, ms = pre ++ .reset :: post → owedBy owed pre = false)
  ∧ (∀ (strict : Bool) (s t : State), advance strict s = .next t →
      (s.meetsDuty = true → t.meetsDuty = true) ∧ (s.heldIsOwed → t.heldIsOwed))
  ∧ (∀ s : State, s.runOver → s.meetsDuty = true → s.owesEnd = false ∧ (s.heldIsOwed → s.leavesBusReleased))
  ∧ (∀ (strict : Bool) (s : State) (u : ResetLeaves), s.resetIn = some u → s.owesEnd = true →
      s.meetsDuty = false
        ∧ ∃ t, advance strict s = .next t ∧ t.held = false ∧ t.owesEnd = true
          ∧ (s.hostCmds = [] → ¬t.leavesBusReleased))

/-- The result of a pseudo-instruction: `ok` exactly when every command answered RESULT_OK, and no value when it is
not (`43_driver_sequences.md` R175; log 21). When it is, EXP_READ returns the RDATA of the response to its command 5
and TS_READ that of its command 4, their READs (R172, R174), and the other two return nothing. A host may use RDATA
exactly when the READ and every BEGIN and WRITE before it succeeded (`70_reset_and_hazards.md` R242; how far back
"before" reaches is log 29), and what the two reading pseudo-instructions return it may use. -/
def Obligations.DriverResult : Prop :=
  (∀ (d : Driver) (rs : List Response), rs.length = d.commands.length →
    (d.ok rs = true ↔ ∀ r ∈ rs, r.result = 0x00#8) ∧ (d.ok rs = false → d.value rs = none))
  ∧ (∀ (reg : Byte) (r1 r2 r3 r4 r5 r6 : Response),
    (Driver.expRead reg).ok [r1, r2, r3, r4, r5, r6] = true →
    (Driver.expRead reg).value [r1, r2, r3, r4, r5, r6] = some r5.rdata)
  ∧ (∀ r1 r2 r3 r4 r5 : Response,
    Driver.tsRead.ok [r1, r2, r3, r4, r5] = true → Driver.tsRead.value [r1, r2, r3, r4, r5] = some r4.rdata)
  ∧ (∀ reg : Byte, (Driver.expRead reg).commands[4]? = some (.readByte false))
  ∧ Driver.tsRead.commands[3]? = some (.readByte false)
  ∧ (∀ (reg val : Byte) (rs : List Response),
    (Driver.expWrite reg val).value rs = none ∧ Driver.tsStart.value rs = none)
  ∧ (∀ (before : List Response) (r : Response) (b : Byte), usableData before r = some b ↔
      r.kind = .readCmd ∧ r.result = 0x00#8 ∧ r.rdata = b
        ∧ ∀ q ∈ before, q.kind = .beginCmd ∨ q.kind = .writeCmd → q.result = 0x00#8)
  ∧ (∀ (reg : Byte) (r1 r2 r3 r4 r5 r6 : Response) (b : Byte), r5.kind = .readCmd →
    (Driver.expRead reg).value [r1, r2, r3, r4, r5, r6] = some b → usableData [r1, r2, r3, r4] r5 = some b)
  ∧ (∀ (r1 r2 r3 r4 r5 : Response) (b : Byte), r4.kind = .readCmd →
    Driver.tsRead.value [r1, r2, r3, r4, r5] = some b → usableData [r1, r2, r3] r4 = some b)

/-! ### A BEGIN that ends in a terminal status -/

/-- If attempt N ends in a terminal status after N-1 transient ones, BEGIN fails with `retry = N`, at that attempt,
with the label of its step (`41_begin_and_retry.md` R141, R133, R135; the answers as a list, log 2). -/
def Obligations.BeginFailsOnTerminalStatus : Prop :=
  ∀ (strict : Bool) (id sub : Byte) (dir : Direction) (s : State) (cmds : List CmdWord) (cause : Cause)
    (failed : List (List Answer)) (last rest : List Answer),
    s.ready → s.hostCmds = beginWord id sub dir :: cmds →
    failed.length < 50 → (∀ a ∈ failed, transientAttempt strict dir a) → terminalAttempt strict dir cause last →
    s.answers = failed.flatten ++ last ++ rest →
    ∃ t new, advanceN strict (1 + 2 * (failed.flatten.length + last.length)) s = .next t
      ∧ t.seq = .idle ∧ t.result = 0xFF#8 ∧ t.retry.toNat = failed.length + 1 ∧ t.rdata = s.rdata
      ∧ t.answers = rest ∧ t.hostCmds = cmds ∧ t.hist = s.hist ++ new ∧ Event.fail cause ∈ new
      ∧ responses new = [{ kind := .beginCmd, result := 0xFF#8, rdata := s.rdata }]
      ∧ startRequests new = failed.length + 1 ∧ stopRequests new = 0
end

