-- ==== Sys2Proof/Laws/Decode.lean ====
section
/-! SUPPORT. What the decoder can answer. -/

namespace Sys2Proof

/-- A command word decodes to one of the four host commands (`30_encoding.md` R88, R100). -/
theorem decodeCmd_isHostCommand {w : CmdWord} {i : Instr} (h : decodeCmd w = .ok i) : i.isHostCommand = true := by
  unfold decodeCmd at h
  repeat' split at h
  all_goals first
    | (cases h; rfl)
    | exact absurd h (by simp)

/-- The micro-operation of a phase code is the one of its phase (`30_encoding.md` R88). -/
theorem decodePhase_toCode (p : Phase) : decodePhase p.toCode = p.toInstr := by cases p <;> decide

theorem toCode_ofCode (c : PhaseCode) : (Phase.ofCode c).toCode = c := by revert c; decide

/-! The fields of an assembled word, and a word from its fields (`30_encoding.md` R81). -/

theorem CmdWord.op_mk (op : BitVec 2) (f : Bool) (a b : Byte) : CmdWord.op (CmdWord.mk op f a b) = op := by
  unfold CmdWord.op CmdWord.mk
  apply BitVec.eq_of_getLsbD_eq
  intro k hk
  simp only [BitVec.getLsbD_extractLsb', BitVec.getLsbD_append]
  interval_cases k <;> simp

theorem CmdWord.f_mk (op : BitVec 2) (f : Bool) (a b : Byte) : CmdWord.f (CmdWord.mk op f a b) = f := by
  simp only [CmdWord.f, CmdWord.mk, BitVec.getLsbD_append]
  simp

theorem CmdWord.a_mk (op : BitVec 2) (f : Bool) (a b : Byte) : CmdWord.a (CmdWord.mk op f a b) = a := by
  unfold CmdWord.a CmdWord.mk
  apply BitVec.eq_of_getLsbD_eq
  intro k hk
  simp only [BitVec.getLsbD_extractLsb', BitVec.getLsbD_append]
  interval_cases k <;> simp

theorem CmdWord.b_mk (op : BitVec 2) (f : Bool) (a b : Byte) : CmdWord.b (CmdWord.mk op f a b) = b := by
  unfold CmdWord.b CmdWord.mk
  apply BitVec.eq_of_getLsbD_eq
  intro k hk
  simp only [BitVec.getLsbD_extractLsb', BitVec.getLsbD_append]
  interval_cases k <;> simp

theorem CmdWord.mk_fields (w : CmdWord) :
    CmdWord.mk (CmdWord.op w) (CmdWord.f w) (CmdWord.a w) (CmdWord.b w) = w := by
  unfold CmdWord.op CmdWord.f CmdWord.a CmdWord.b CmdWord.mk
  apply BitVec.eq_of_getLsbD_eq
  intro k hk
  simp only [BitVec.getLsbD_extractLsb', BitVec.getLsbD_append]
  interval_cases k <;> simp

end Sys2Proof
end

