-- ==== Sys2Proof/Laws/Operands.lean ====
section
/-! SUPPORT. The control register's bits, the status classification and the address step's verdicts, said once. -/

namespace Sys2Proof.Machine

/-- Writing a pattern clears the completion flag (`10_state.md` R31). -/
@[simp] theorem intOf_ctrlAfterWrite_pat (p : Phase) (old : Byte) : intOf (ctrlAfterWrite old (pat p)) = false := by
  revert old; cases p <;> decide

/-- After a pattern write BC.CTRL names the phase requested (`10_state.md` R28). -/
@[simp] theorem lastPhase_ctrlAfterWrite_pat (p : Phase) (old : Byte) :
    lastPhase (ctrlAfterWrite old (pat p)) = some p := by
  revert old; cases p <;> decide

/-- Completion sets the flag and leaves the phase (`40_bus_phase_controller.md` R118). -/
@[simp] theorem intOf_ctrlCompleted (c : Byte) : intOf (ctrlCompleted c) = true := by
  revert c; decide

@[simp] theorem lastPhase_ctrlCompleted (c : Byte) : lastPhase (ctrlCompleted c) = lastPhase c := by
  revert c; decide

/-- What BC.CTRL holds after a pattern write, bit by bit: the pattern without INT, and the old WC. -/
theorem ctrlAfterWrite_start (old : Byte) : ctrlAfterWrite old (pat .start) = 0x24#8 ||| (old &&& 0x08#8) := by
  revert old; decide
theorem ctrlAfterWrite_dataNoack (old : Byte) :
    ctrlAfterWrite old (pat .dataNoack) = 0x04#8 ||| (old &&& 0x08#8) := by
  revert old; decide
theorem ctrlAfterWrite_dataAck (old : Byte) : ctrlAfterWrite old (pat .dataAck) = 0x44#8 ||| (old &&& 0x08#8) := by
  revert old; decide
theorem ctrlAfterWrite_stop (old : Byte) : ctrlAfterWrite old (pat .stop) = 0x14#8 ||| (old &&& 0x08#8) := by
  revert old; decide

/-- The bus controller has a completion step exactly for a START or DATA phase with INT clear
(`40_bus_phase_controller.md` R118, R119). -/
theorem outstandingPhase_eq_some (c : Byte) (p : Phase) :
    outstandingPhase c = some p ↔ intOf c = false ∧ lastPhase c = some p ∧ p ≠ .stop := by
  revert c; cases p <;> decide

/-- A disabled bus controller has no phase outstanding: every pattern has `EN = 1` (`10_state.md` R37). -/
@[simp] theorem lastPhase_ctrlDisabled (c : Byte) : lastPhase (ctrlDisabled c) = none := by
  revert c; decide

@[simp] theorem outstandingPhase_ctrlDisabled (c : Byte) : outstandingPhase (ctrlDisabled c) = none := by
  revert c; decide

theorem outstandingPhase_of_flag {c : Byte} (h : intOf c = true) : outstandingPhase c = none := by
  simp [outstandingPhase, h]

/-- The low three bits of the raw status are never seen (`30_encoding.md` R90). -/
theorem maskStatus_idem (raw : Byte) : maskStatus (maskStatus raw) = maskStatus raw := by
  revert raw; decide

/-- A named condition is read back from its code (`30_encoding.md` R91, R92). -/
theorem cond_statusCode {c : Cond} (h : c ∈ namedConds) : cond (statusCode c) = c := by
  simp only [namedConds, List.mem_cons, List.not_mem_nil, or_false] at h
  rcases h with h | h | h | h | h | h | h | h | h | h | h <;> subst h <;> decide

/-- The verdicts of the address step, in the terms of `41_begin_and_retry.md` R135. -/
theorem addrVerdict_retry (strict : Bool) (dir : Direction) (c : Cond) :
    addrVerdict strict dir c = .retry ↔ isAddrNack strict dir c = true ∨ c = .arbLost := by
  cases c <;> cases strict <;> cases dir <;> simp [addrVerdict, isAddrNack, isAddrAck]

theorem addrVerdict_acked (strict : Bool) (dir : Direction) (c : Cond) :
    addrVerdict strict dir c = .acked ↔ isAddrAck strict dir c = true := by
  cases c <;> cases strict <;> cases dir <;> simp [addrVerdict, isAddrNack, isAddrAck]

/-- The condition a READ wants names its phase's status (`42_byte_transfer_and_end.md` R152). -/
theorem readPhase_ne_stop (a : Bool) : readPhase a ≠ .stop := by
  cases a <;> decide

end Sys2Proof.Machine
end

