-- ==== Sys2Proof/Laws/State.lean ====
section
/-! SUPPORT. One lemma per field per update: what each primitive operation leaves in each field of State. -/

namespace Sys2Proof.Machine

section
variable (s : State) (e : Event)

@[simp] theorem State.record_seq : (s.record e).seq = s.seq := rfl
@[simp] theorem State.record_retry : (s.record e).retry = s.retry := rfl
@[simp] theorem State.record_ab : (s.record e).ab = s.ab := rfl
@[simp] theorem State.record_ackreq : (s.record e).ackreq = s.ackreq := rfl
@[simp] theorem State.record_result : (s.record e).result = s.result := rfl
@[simp] theorem State.record_rdata : (s.record e).rdata = s.rdata := rfl
@[simp] theorem State.record_bcCtrl : (s.record e).bcCtrl = s.bcCtrl := rfl
@[simp] theorem State.record_bcStatus : (s.record e).bcStatus = s.bcStatus := rfl
@[simp] theorem State.record_bcData : (s.record e).bcData = s.bcData := rfl
@[simp] theorem State.record_held : (s.record e).held = s.held := rfl
@[simp] theorem State.record_hist : (s.record e).hist = s.hist ++ [e] := rfl
@[simp] theorem State.record_hostCmds : (s.record e).hostCmds = s.hostCmds := rfl
@[simp] theorem State.record_answers : (s.record e).answers = s.answers := rfl
@[simp] theorem State.record_stopLeaves : (s.record e).stopLeaves = s.stopLeaves := rfl
@[simp] theorem State.record_resetIn : (s.record e).resetIn = s.resetIn := rfl
@[simp] theorem State.record_lateAt : (s.record e).lateAt = s.lateAt := rfl
@[simp] theorem State.record_bench : (s.record e).bench = s.bench := rfl
@[simp] theorem State.record_accesses : (s.record e).accesses = s.accesses := rfl

end

section
variable (s : State) (r : BcReg)

@[simp] theorem State.memRead_seq : (s.memRead r).seq = s.seq := rfl
@[simp] theorem State.memRead_retry : (s.memRead r).retry = s.retry := rfl
@[simp] theorem State.memRead_ab : (s.memRead r).ab = s.ab := rfl
@[simp] theorem State.memRead_ackreq : (s.memRead r).ackreq = s.ackreq := rfl
@[simp] theorem State.memRead_result : (s.memRead r).result = s.result := rfl
@[simp] theorem State.memRead_rdata : (s.memRead r).rdata = s.rdata := rfl
@[simp] theorem State.memRead_bcCtrl : (s.memRead r).bcCtrl = s.bcCtrl := rfl
@[simp] theorem State.memRead_bcStatus : (s.memRead r).bcStatus = s.bcStatus := rfl
@[simp] theorem State.memRead_bcData : (s.memRead r).bcData = s.bcData := rfl
@[simp] theorem State.memRead_held : (s.memRead r).held = s.held := rfl
@[simp] theorem State.memRead_hist : (s.memRead r).hist = s.hist := rfl
@[simp] theorem State.memRead_hostCmds : (s.memRead r).hostCmds = s.hostCmds := rfl
@[simp] theorem State.memRead_answers : (s.memRead r).answers = s.answers := rfl
@[simp] theorem State.memRead_stopLeaves : (s.memRead r).stopLeaves = s.stopLeaves := rfl
@[simp] theorem State.memRead_resetIn : (s.memRead r).resetIn = s.resetIn := rfl
@[simp] theorem State.memRead_lateAt : (s.memRead r).lateAt = s.lateAt := rfl
@[simp] theorem State.memRead_bench : (s.memRead r).bench = s.bench := rfl
@[simp] theorem State.memRead_accesses : (s.memRead r).accesses = s.accesses ++ [.rd r (s.bc r)] := rfl

end

section
variable (s : State) (v : Byte)

@[simp] theorem State.writeCtrl_seq : (s.writeCtrl v).seq = s.seq := rfl
@[simp] theorem State.writeCtrl_retry : (s.writeCtrl v).retry = s.retry := rfl
@[simp] theorem State.writeCtrl_ab : (s.writeCtrl v).ab = s.ab := rfl
@[simp] theorem State.writeCtrl_ackreq : (s.writeCtrl v).ackreq = s.ackreq := rfl
@[simp] theorem State.writeCtrl_result : (s.writeCtrl v).result = s.result := rfl
@[simp] theorem State.writeCtrl_rdata : (s.writeCtrl v).rdata = s.rdata := rfl
@[simp] theorem State.writeCtrl_bcCtrl : (s.writeCtrl v).bcCtrl = ctrlAfterWrite s.bcCtrl v := rfl
@[simp] theorem State.writeCtrl_bcStatus : (s.writeCtrl v).bcStatus = s.bcStatus := rfl
@[simp] theorem State.writeCtrl_bcData : (s.writeCtrl v).bcData = s.bcData := rfl
@[simp] theorem State.writeCtrl_held : (s.writeCtrl v).held = s.held := rfl
@[simp] theorem State.writeCtrl_hist : (s.writeCtrl v).hist = s.hist := rfl
@[simp] theorem State.writeCtrl_hostCmds : (s.writeCtrl v).hostCmds = s.hostCmds := rfl
@[simp] theorem State.writeCtrl_answers : (s.writeCtrl v).answers = s.answers := rfl
@[simp] theorem State.writeCtrl_stopLeaves : (s.writeCtrl v).stopLeaves = s.stopLeaves := rfl
@[simp] theorem State.writeCtrl_resetIn : (s.writeCtrl v).resetIn = s.resetIn := rfl
@[simp] theorem State.writeCtrl_lateAt : (s.writeCtrl v).lateAt = s.lateAt := rfl
@[simp] theorem State.writeCtrl_bench : (s.writeCtrl v).bench = s.bench := rfl
@[simp] theorem State.writeCtrl_accesses : (s.writeCtrl v).accesses = s.accesses ++ [.wr .ctrl v] := rfl

end

section
variable (s : State) (v : Byte)

@[simp] theorem State.writeData_seq : (s.writeData v).seq = s.seq := rfl
@[simp] theorem State.writeData_retry : (s.writeData v).retry = s.retry := rfl
@[simp] theorem State.writeData_ab : (s.writeData v).ab = s.ab := rfl
@[simp] theorem State.writeData_ackreq : (s.writeData v).ackreq = s.ackreq := rfl
@[simp] theorem State.writeData_result : (s.writeData v).result = s.result := rfl
@[simp] theorem State.writeData_rdata : (s.writeData v).rdata = s.rdata := rfl
@[simp] theorem State.writeData_bcCtrl : (s.writeData v).bcCtrl = s.bcCtrl := rfl
@[simp] theorem State.writeData_bcStatus : (s.writeData v).bcStatus = s.bcStatus := rfl
@[simp] theorem State.writeData_bcData : (s.writeData v).bcData = v := rfl
@[simp] theorem State.writeData_held : (s.writeData v).held = s.held := rfl
@[simp] theorem State.writeData_hist : (s.writeData v).hist = s.hist := rfl
@[simp] theorem State.writeData_hostCmds : (s.writeData v).hostCmds = s.hostCmds := rfl
@[simp] theorem State.writeData_answers : (s.writeData v).answers = s.answers := rfl
@[simp] theorem State.writeData_stopLeaves : (s.writeData v).stopLeaves = s.stopLeaves := rfl
@[simp] theorem State.writeData_resetIn : (s.writeData v).resetIn = s.resetIn := rfl
@[simp] theorem State.writeData_lateAt : (s.writeData v).lateAt = s.lateAt := rfl
@[simp] theorem State.writeData_bench : (s.writeData v).bench = s.bench := rfl
@[simp] theorem State.writeData_accesses : (s.writeData v).accesses = s.accesses ++ [.wr .data v] := rfl

end

section
variable (s : State)

@[simp] theorem State.takeStatus_seq : (s.takeStatus).seq = s.seq := rfl
@[simp] theorem State.takeStatus_retry : (s.takeStatus).retry = s.retry := rfl
@[simp] theorem State.takeStatus_ab : (s.takeStatus).ab = s.ab := rfl
@[simp] theorem State.takeStatus_ackreq : (s.takeStatus).ackreq = s.ackreq := rfl
@[simp] theorem State.takeStatus_result : (s.takeStatus).result = s.result := rfl
@[simp] theorem State.takeStatus_rdata : (s.takeStatus).rdata = s.rdata := rfl
@[simp] theorem State.takeStatus_bcCtrl : (s.takeStatus).bcCtrl = s.bcCtrl := rfl
@[simp] theorem State.takeStatus_bcStatus : (s.takeStatus).bcStatus = s.bcStatus := rfl
@[simp] theorem State.takeStatus_bcData : (s.takeStatus).bcData = s.bcData := rfl
@[simp] theorem State.takeStatus_held : (s.takeStatus).held = s.held := rfl
@[simp] theorem State.takeStatus_hist : (s.takeStatus).hist = s.hist := rfl
@[simp] theorem State.takeStatus_hostCmds : (s.takeStatus).hostCmds = s.hostCmds := rfl
@[simp] theorem State.takeStatus_answers : (s.takeStatus).answers = s.answers := rfl
@[simp] theorem State.takeStatus_stopLeaves : (s.takeStatus).stopLeaves = s.stopLeaves := rfl
@[simp] theorem State.takeStatus_resetIn : (s.takeStatus).resetIn = s.resetIn := rfl
@[simp] theorem State.takeStatus_lateAt : (s.takeStatus).lateAt = s.lateAt := rfl
@[simp] theorem State.takeStatus_bench : (s.takeStatus).bench = s.bench := rfl
@[simp] theorem State.takeStatus_accesses : (s.takeStatus).accesses = s.accesses ++ [.rd .ctrl s.bcCtrl, .rd .status s.bcStatus] := by simp [State.takeStatus, State.memRead, State.bc]

end

section
variable (s : State)

@[simp] theorem State.takeData_seq : (s.takeData).seq = s.seq := rfl
@[simp] theorem State.takeData_retry : (s.takeData).retry = s.retry := rfl
@[simp] theorem State.takeData_ab : (s.takeData).ab = s.ab := rfl
@[simp] theorem State.takeData_ackreq : (s.takeData).ackreq = s.ackreq := rfl
@[simp] theorem State.takeData_result : (s.takeData).result = s.result := rfl
@[simp] theorem State.takeData_rdata : (s.takeData).rdata = s.bcData := rfl
@[simp] theorem State.takeData_bcCtrl : (s.takeData).bcCtrl = s.bcCtrl := rfl
@[simp] theorem State.takeData_bcStatus : (s.takeData).bcStatus = s.bcStatus := rfl
@[simp] theorem State.takeData_bcData : (s.takeData).bcData = s.bcData := rfl
@[simp] theorem State.takeData_held : (s.takeData).held = s.held := rfl
@[simp] theorem State.takeData_hist : (s.takeData).hist = s.hist := rfl
@[simp] theorem State.takeData_hostCmds : (s.takeData).hostCmds = s.hostCmds := rfl
@[simp] theorem State.takeData_answers : (s.takeData).answers = s.answers := rfl
@[simp] theorem State.takeData_stopLeaves : (s.takeData).stopLeaves = s.stopLeaves := rfl
@[simp] theorem State.takeData_resetIn : (s.takeData).resetIn = s.resetIn := rfl
@[simp] theorem State.takeData_lateAt : (s.takeData).lateAt = s.lateAt := rfl
@[simp] theorem State.takeData_bench : (s.takeData).bench = s.bench := rfl
@[simp] theorem State.takeData_accesses : (s.takeData).accesses = s.accesses ++ [.rd .data s.bcData] := rfl

end

section
variable (s : State) (k : CmdKind)

@[simp] theorem State.returnOk_seq : (s.returnOk k).seq = .idle := rfl
@[simp] theorem State.returnOk_retry : (s.returnOk k).retry = s.retry := rfl
@[simp] theorem State.returnOk_ab : (s.returnOk k).ab = s.ab := rfl
@[simp] theorem State.returnOk_ackreq : (s.returnOk k).ackreq = s.ackreq := rfl
@[simp] theorem State.returnOk_result : (s.returnOk k).result = 0x00#8 := rfl
@[simp] theorem State.returnOk_rdata : (s.returnOk k).rdata = s.rdata := rfl
@[simp] theorem State.returnOk_bcCtrl : (s.returnOk k).bcCtrl = s.bcCtrl := rfl
@[simp] theorem State.returnOk_bcStatus : (s.returnOk k).bcStatus = s.bcStatus := rfl
@[simp] theorem State.returnOk_bcData : (s.returnOk k).bcData = s.bcData := rfl
@[simp] theorem State.returnOk_held : (s.returnOk k).held = s.held := rfl
@[simp] theorem State.returnOk_hist : (s.returnOk k).hist = s.hist ++ [.rsp k 0x00#8 s.rdata] := rfl
@[simp] theorem State.returnOk_hostCmds : (s.returnOk k).hostCmds = s.hostCmds := rfl
@[simp] theorem State.returnOk_answers : (s.returnOk k).answers = s.answers := rfl
@[simp] theorem State.returnOk_stopLeaves : (s.returnOk k).stopLeaves = s.stopLeaves := rfl
@[simp] theorem State.returnOk_resetIn : (s.returnOk k).resetIn = s.resetIn := rfl
@[simp] theorem State.returnOk_lateAt : (s.returnOk k).lateAt = s.lateAt := rfl
@[simp] theorem State.returnOk_bench : (s.returnOk k).bench = s.bench := rfl
@[simp] theorem State.returnOk_accesses : (s.returnOk k).accesses = s.accesses := rfl

end

section
variable (s : State) (k : CmdKind) (c : Cause)

@[simp] theorem State.raiseFail_seq : (s.raiseFail k c).seq = .idle := rfl
@[simp] theorem State.raiseFail_retry : (s.raiseFail k c).retry = s.retry := rfl
@[simp] theorem State.raiseFail_ab : (s.raiseFail k c).ab = s.ab := rfl
@[simp] theorem State.raiseFail_ackreq : (s.raiseFail k c).ackreq = s.ackreq := rfl
@[simp] theorem State.raiseFail_result : (s.raiseFail k c).result = 0xFF#8 := rfl
@[simp] theorem State.raiseFail_rdata : (s.raiseFail k c).rdata = s.rdata := rfl
@[simp] theorem State.raiseFail_bcCtrl : (s.raiseFail k c).bcCtrl = s.bcCtrl := rfl
@[simp] theorem State.raiseFail_bcStatus : (s.raiseFail k c).bcStatus = s.bcStatus := rfl
@[simp] theorem State.raiseFail_bcData : (s.raiseFail k c).bcData = s.bcData := rfl
@[simp] theorem State.raiseFail_held : (s.raiseFail k c).held = s.held := rfl
@[simp] theorem State.raiseFail_hist : (s.raiseFail k c).hist = s.hist ++ [.fail c, .rsp k 0xFF#8 s.rdata] := by simp [State.raiseFail, State.record, Config.resultFail]
@[simp] theorem State.raiseFail_hostCmds : (s.raiseFail k c).hostCmds = s.hostCmds := rfl
@[simp] theorem State.raiseFail_answers : (s.raiseFail k c).answers = s.answers := rfl
@[simp] theorem State.raiseFail_stopLeaves : (s.raiseFail k c).stopLeaves = s.stopLeaves := rfl
@[simp] theorem State.raiseFail_resetIn : (s.raiseFail k c).resetIn = s.resetIn := rfl
@[simp] theorem State.raiseFail_lateAt : (s.raiseFail k c).lateAt = s.lateAt := rfl
@[simp] theorem State.raiseFail_bench : (s.raiseFail k c).bench = s.bench := rfl
@[simp] theorem State.raiseFail_accesses : (s.raiseFail k c).accesses = s.accesses := rfl

end

section
variable (s : State) (w : CmdWord)

@[simp] theorem State.holdCommand_seq : (s.holdCommand w).seq = s.seq := rfl
@[simp] theorem State.holdCommand_retry : (s.holdCommand w).retry = s.retry := rfl
@[simp] theorem State.holdCommand_ab : (s.holdCommand w).ab = s.ab := rfl
@[simp] theorem State.holdCommand_ackreq : (s.holdCommand w).ackreq = s.ackreq := rfl
@[simp] theorem State.holdCommand_result : (s.holdCommand w).result = s.result := rfl
@[simp] theorem State.holdCommand_rdata : (s.holdCommand w).rdata = s.rdata := rfl
@[simp] theorem State.holdCommand_bcCtrl : (s.holdCommand w).bcCtrl = s.bcCtrl := rfl
@[simp] theorem State.holdCommand_bcStatus : (s.holdCommand w).bcStatus = s.bcStatus := rfl
@[simp] theorem State.holdCommand_bcData : (s.holdCommand w).bcData = s.bcData := rfl
@[simp] theorem State.holdCommand_held : (s.holdCommand w).held = s.held := rfl
@[simp] theorem State.holdCommand_hist : (s.holdCommand w).hist = s.hist := rfl
@[simp] theorem State.holdCommand_hostCmds : (s.holdCommand w).hostCmds = w :: s.hostCmds := rfl
@[simp] theorem State.holdCommand_answers : (s.holdCommand w).answers = s.answers := rfl
@[simp] theorem State.holdCommand_stopLeaves : (s.holdCommand w).stopLeaves = s.stopLeaves := rfl
@[simp] theorem State.holdCommand_resetIn : (s.holdCommand w).resetIn = s.resetIn := rfl
@[simp] theorem State.holdCommand_lateAt : (s.holdCommand w).lateAt = s.lateAt := rfl
@[simp] theorem State.holdCommand_bench : (s.holdCommand w).bench = s.bench := rfl
@[simp] theorem State.holdCommand_accesses : (s.holdCommand w).accesses = s.accesses := rfl

end

end Sys2Proof.Machine
end

