-- ==== Sys2Proof/Laws/Ops.lean ====
section
/-! SUPPORT. One specification lemma per shared operation: everything it can do, and so its frame. -/

namespace Sys2Proof.Machine

/-- The state after the request of a phase that is waited for (`40_bus_phase_controller.md` R110 to R113). -/
theorem State.requestPhase_wait (s : State) {p : Phase} (h : p ≠ .stop) :
    s.requestPhase p =
      { s with
        bcCtrl := ctrlAfterWrite s.bcCtrl (pat p)
        hist := s.hist ++ [.req p s.bcData]
        accesses := s.accesses ++ [.wr .ctrl (pat p)] } := by
  cases p <;> first | rfl | exact absurd rfl h

/-- The state after a STOP request (`40_bus_phase_controller.md` R114, R119). -/
theorem State.requestPhase_stop (s : State) :
    s.requestPhase .stop =
      { s with
        bcCtrl := ctrlAfterWrite s.bcCtrl (pat .stop)
        hist := s.hist ++ [.req .stop s.bcData]
        accesses := s.accesses ++ [.wr .ctrl (pat .stop)]
        held := false
        bcStatus := (s.stopLeaves.head?.map Answer.s).getD s.bcStatus
        bcData := (s.stopLeaves.head?.map Answer.d).getD s.bcData
        stopLeaves := s.stopLeaves.tail } := by
  obtain ⟨_, _, _, _, _, _, _, _, _, _, _, _, _, sl, _, _, _, _⟩ := s
  cases sl <;> rfl

/-- The completion step of the bus controller, in full (`40_bus_phase_controller.md` R118). -/
theorem State.busComplete_eq_some {s t : State} :
    s.busComplete = some t ↔
      ∃ p x rest, outstandingPhase s.bcCtrl = some p ∧ s.answers = x :: rest ∧
        t = { s with bcStatus := x.s, bcData := x.d, bcCtrl := ctrlCompleted s.bcCtrl, answers := rest,
                     hist := s.hist ++ [.cpl p x.s x.d] } := by
  unfold State.busComplete
  cases hp : outstandingPhase s.bcCtrl with
  | none => simp
  | some p =>
    cases ha : s.answers with
    | nil => simp
    | cons x rest => simp [eq_comm]

/-- A phase just requested is completed by the next answer (`40_bus_phase_controller.md` R118). -/
theorem State.busComplete_requestPhase (s : State) {p : Phase} (h : p ≠ .stop) :
    (s.requestPhase p).busComplete =
      match s.answers with
      | [] => none
      | x :: rest =>
        some
          { s with
            bcStatus := x.s
            bcData := x.d
            bcCtrl := ctrlCompleted (ctrlAfterWrite s.bcCtrl (pat p))
            answers := rest
            hist := s.hist ++ [.req p s.bcData, .cpl p x.s x.d]
            accesses := s.accesses ++ [.wr .ctrl (pat p)] } := by
  have ho : outstandingPhase (ctrlAfterWrite s.bcCtrl (pat p)) = some p := by
    simp [outstandingPhase_eq_some, h]
  rw [State.requestPhase_wait s h]
  unfold State.busComplete
  cases ha : s.answers <;> simp [ho]

/-- The attempt gate below the bound (`41_begin_and_retry.md` R132). -/
theorem State.attemptGate_below {s : State} (h : s.retry.toNat < 50) :
    s.attemptGate =
      { s with
        retry := s.retry + 1#6
        seq := .bStart
        bcCtrl := ctrlAfterWrite s.bcCtrl (pat .start)
        hist := s.hist ++ [.req .start s.bcData]
        accesses := s.accesses ++ [.wr .ctrl (pat .start)] } := by
  rw [State.attemptGate, if_neg (by simp only [Config.maxAttempts]; omega)]
  rfl

/-- The attempt gate at the bound (`41_begin_and_retry.md` R137). -/
theorem State.attemptGate_exhausted {s : State} (h : 50 ≤ s.retry.toNat) :
    s.attemptGate = s.raiseFail .beginCmd .budget := if_pos h

/-- The counter after a permitted attempt does not wrap (`44_master_fsm.md` R186). -/
theorem retry_succ_toNat {r : Counter} (h : r.toNat < 50) : (r + 1#6).toNat = r.toNat + 1 := by
  rw [BitVec.toNat_add]
  exact Nat.mod_eq_of_lt (by simp; omega)

/-- An accept in IDLE, and a command held otherwise (`44_master_fsm.md` R192). -/
theorem acceptWhenIdle_idle (w : CmdWord) {s : State} (t : State) (h : s.seq = .idle) :
    acceptWhenIdle w s t = .next t := by
  simp [acceptWhenIdle, h]

theorem acceptWhenIdle_busy (w : CmdWord) {s : State} (t : State) (h : s.seq ≠ .idle) :
    acceptWhenIdle w s t = .next (s.holdCommand w) := by
  unfold acceptWhenIdle
  cases hs : s.seq <;> first | exact absurd hs h | rfl

/-- The accept of BEGIN always finds the gate open (`41_begin_and_retry.md` R131, R132, R137). -/
theorem State.acceptBegin_eq (s : State) (id sub : Byte) (dir : Direction) :
    s.acceptBegin id sub dir =
      { s with
        seq := .bStart
        retry := 1#6
        ab := addressByte id sub dir
        bcCtrl := ctrlAfterWrite s.bcCtrl (pat .start)
        hist := s.hist ++ [.acc (.beginTransaction id sub dir), .req .start s.bcData]
        accesses := s.accesses ++ [.wr .ctrl (pat .start)] } := by
  rw [State.acceptBegin, State.attemptGate_below (by change (0#6).toNat < 50; decide)]
  simp [State.record]

end Sys2Proof.Machine
end

