-- ==== Sys2Proof/Laws/Step.lean ====
section
/-! SUPPORT. What a step of the machine can do, said once. -/

namespace Sys2Proof.Machine

/-- The state a decoded instruction makes of an idle machine. -/
def State.accepted (s : State) : Instr → State
  | .beginTransaction id sub dir => s.acceptBegin id sub dir
  | .writeByte v => s.acceptWrite v
  | .readByte a => s.acceptRead a
  | .endTransaction => s.acceptEnd
  | .phStart => { s.requestPhase .start with bench := .holding }
  | .phDataNoack => { s.requestPhase .dataNoack with bench := .holding }
  | .phDataAck => { s.requestPhase .dataAck with bench := .holding }
  | .phStop => { s.requestPhase .stop with bench := .idle }

/-- Every instruction completes on an idle machine, and this is its next state. -/
theorem exec_idle (i : Instr) {s : State} (h : s.seq = .idle) : exec i s = .next (s.accepted i) := by
  cases i <;> first | exact acceptWhenIdle_idle _ _ h | rfl

/-- A phase micro-operation completes in any state (`40_bus_phase_controller.md` R110). -/
theorem exec_phase (p : Phase) (s : State) : exec p.toInstr s = .next (s.accepted p.toInstr) := by
  cases p <;> rfl

/-- The steps of the machine: who steps, when, and to which state (`44_master_fsm.md` R192, R193). -/
inductive StepCase (strict : Bool) (s t : State) : Prop
  | reset (u : ResetLeaves) (hr : s.resetIn = some u) (ht : t = s.takeReset u)
  | bus (hr : s.resetIn = none)
      (hw : s.seq ≠ .idle ∨ s.seq = .idle ∧ s.bench = .holding) (hf : s.intFlag = false)
      (ht : s.busComplete = some t)
  | late (u : State) (hr : s.resetIn = none) (hs : s.seq = .idle) (hl : s.lateDue = true)
      (hu : s.busComplete = some u) (ht : t = { u with held := u.heldAfterPhase })
  | start (hr : s.resetIn = none) (hs : s.seq = .bStart) (hf : s.intFlag = true) (ht : t = s.completeStart)
  | address (hr : s.resetIn = none) (hs : s.seq = .bAddr) (hf : s.intFlag = true) (ht : t = s.completeAddress strict)
  | write (hr : s.resetIn = none) (hs : s.seq = .wData) (hf : s.intFlag = true) (ht : t = s.completeWrite)
  | read (hr : s.resetIn = none) (hs : s.seq = .rData) (hf : s.intFlag = true) (ht : t = s.completeRead)
  | benchReturn (hr : s.resetIn = none) (hs : s.seq = .idle) (hb : s.bench = .holding) (hf : s.intFlag = true)
      (ht : t = s.returnPhase.2)
  | benchCall (c : PhaseCode) (hr : s.resetIn = none) (hs : s.seq = .idle) (hb : s.bench = .presented c)
      (ht : t = { s with bench := .idle }.accepted (decodePhase c))
  | accept (w : CmdWord) (rest : List CmdWord) (i : Instr) (hr : s.resetIn = none) (hs : s.seq = .idle)
      (hp : ∀ c, s.bench ≠ .presented c) (hh : s.bench ≠ .holding) (hc : s.hostCmds = w :: rest)
      (hd : decodeCmd w = .ok i) (ht : t = { s with hostCmds := rest }.accepted i)
  | illegal (w : CmdWord) (rest : List CmdWord) (e : DecodeError) (hr : s.resetIn = none) (hs : s.seq = .idle)
      (hp : ∀ c, s.bench ≠ .presented c) (hh : s.bench ≠ .holding) (hc : s.hostCmds = w :: rest)
      (hd : decodeCmd w = .error e) (ht : t = { s with hostCmds := rest }.acceptIllegal w)

theorem busStep_eq_next {s t : State} : busStep s = .next t ↔ s.busComplete = some t := by
  unfold busStep
  cases s.busComplete <;> simp

/-- The bus controller completes only where INT reads 0 (`40_bus_phase_controller.md` R118). -/
theorem State.intFlag_of_busComplete {s t : State} (h : s.busComplete = some t) : s.intFlag = false := by
  obtain ⟨p, _, _, ho, _⟩ := State.busComplete_eq_some.1 h
  exact ((outstandingPhase_eq_some _ _).1 ho).1

/-- When a late completion is due (`40_bus_phase_controller.md` R118, log 16). -/
theorem State.lateDue_eq_true {s : State} :
    s.lateDue = true ↔
      (∃ k, s.lateAt = some k ∧ s.hostCmds.length ≤ k) ∧ s.bench ≠ .holding ∧ ∃ t, s.busComplete = some t := by
  unfold State.lateDue
  cases s.lateAt <;> simp [Option.isSome_iff_exists, and_assoc]

/-- With nothing outstanding none is due: so from the reset state on, until a reset cuts a phase short. -/
theorem State.lateDue_eq_false {s : State} (h : outstandingPhase s.bcCtrl = none) : s.lateDue = false := by
  unfold State.lateDue State.busComplete
  rw [h]
  cases s.lateAt <;> simp

/-- A late completion is the completion step with the ghost bit noted (`10_state.md` R33, log 31). -/
theorem State.lateComplete_eq_some {s t : State} :
    s.lateComplete = some t ↔
      s.lateDue = true ∧ ∃ u, s.busComplete = some u ∧ t = { u with held := u.heldAfterPhase } := by
  unfold State.lateComplete
  cases s.lateDue <;> simp [eq_comm]

theorem State.lateComplete_eq_none {s : State} (h : s.lateDue = false) : s.lateComplete = none := by
  simp [State.lateComplete, h]

theorem waitStep_cases {s u t : State} (h : waitStep s u = .next t) :
    s.intFlag = true ∧ t = u ∨ s.intFlag = false ∧ s.busComplete = some t := by
  unfold waitStep at h
  split at h
  · cases h; exact .inl ⟨‹_›, rfl⟩
  · exact .inr ⟨by simpa using ‹¬s.intFlag = true›, busStep_eq_next.mp h⟩

theorem acceptNext_cases {strict : Bool} {s t : State} (hr : s.resetIn = none) (hs : s.seq = .idle)
    (hp : ∀ c, s.bench ≠ .presented c) (hh : s.bench ≠ .holding) (h : acceptNext s = .next t) :
    StepCase strict s t := by
  unfold acceptNext at h
  split at h
  · cases h
  · next w rest hc =>
    split at h
    · next i hd =>
      rw [exec_idle i (s := { s with hostCmds := rest }) hs] at h
      cases h
      exact .accept w rest i hr hs hp hh hc hd rfl
    · next e hd =>
      cases h
      exact .illegal w rest e hr hs hp hh hc hd rfl

theorem idleStep_cases {strict : Bool} {s t : State} (hr : s.resetIn = none) (hs : s.seq = .idle)
    (h : idleStep s = .next t) : StepCase strict s t := by
  unfold idleStep at h
  split at h
  · next v hv =>
    cases h
    obtain ⟨hl, u, hu, ht⟩ := State.lateComplete_eq_some.1 hv
    exact .late u hr hs hl hu ht
  cases hb : s.bench with
  | presented c =>
    rw [hb] at h
    have h' : exec (decodePhase c) { s with bench := .idle } = .next t := h
    rw [exec_idle _ (s := { s with bench := .idle }) hs] at h'
    cases h'
    exact .benchCall c hr hs hb rfl
  | holding =>
    rw [hb] at h
    obtain ⟨hf, rfl⟩ | ⟨hf, hc⟩ := waitStep_cases (u := s.returnPhase.2) h
    · exact .benchReturn hr hs hb hf rfl
    · exact .bus hr (.inr ⟨hs, hb⟩) hf hc
  | idle =>
    rw [hb] at h
    exact acceptNext_cases hr hs (by simp [hb]) (by simp [hb]) h

/-- What a step can do. -/
theorem advance_cases {strict : Bool} {s t : State} (h : advance strict s = .next t) : StepCase strict s t := by
  unfold advance at h
  cases hr : s.resetIn with
  | some u =>
    rw [hr] at h
    cases h
    exact .reset u hr rfl
  | none =>
    rw [hr] at h
    cases hs : s.seq with
    | idle =>
      rw [hs] at h
      exact idleStep_cases hr hs h
    | bStart =>
      rw [hs] at h
      obtain ⟨hf, rfl⟩ | ⟨hf, hc⟩ := waitStep_cases h
      · exact .start hr hs hf rfl
      · exact .bus hr (.inl (by simp [hs])) hf hc
    | bAddr =>
      rw [hs] at h
      obtain ⟨hf, rfl⟩ | ⟨hf, hc⟩ := waitStep_cases h
      · exact .address hr hs hf rfl
      · exact .bus hr (.inl (by simp [hs])) hf hc
    | wData =>
      rw [hs] at h
      obtain ⟨hf, rfl⟩ | ⟨hf, hc⟩ := waitStep_cases h
      · exact .write hr hs hf rfl
      · exact .bus hr (.inl (by simp [hs])) hf hc
    | rData =>
      rw [hs] at h
      obtain ⟨hf, rfl⟩ | ⟨hf, hc⟩ := waitStep_cases h
      · exact .read hr hs hf rfl
      · exact .bus hr (.inl (by simp [hs])) hf hc

/-! The step in each situation, forward. -/

theorem advance_start {strict : Bool} {s : State} (hr : s.resetIn = none) (hs : s.seq = .bStart)
    (hf : s.intFlag = true) : advance strict s = .next s.completeStart := by
  simp [advance, hr, hs, waitStep, hf]

theorem advance_address {strict : Bool} {s : State} (hr : s.resetIn = none) (hs : s.seq = .bAddr)
    (hf : s.intFlag = true) : advance strict s = .next (s.completeAddress strict) := by
  simp [advance, hr, hs, waitStep, hf]

theorem advance_write {strict : Bool} {s : State} (hr : s.resetIn = none) (hs : s.seq = .wData)
    (hf : s.intFlag = true) : advance strict s = .next s.completeWrite := by
  simp [advance, hr, hs, waitStep, hf]

theorem advance_read {strict : Bool} {s : State} (hr : s.resetIn = none) (hs : s.seq = .rData)
    (hf : s.intFlag = true) : advance strict s = .next s.completeRead := by
  simp [advance, hr, hs, waitStep, hf]

theorem advance_bus {strict : Bool} {s : State} (hr : s.resetIn = none) (hs : s.seq ≠ .idle)
    (hf : s.intFlag = false) : advance strict s = busStep s := by
  unfold advance
  rw [hr]
  cases hq : s.seq <;> first | exact absurd hq hs | simp [waitStep, hf]

/-- A late completion of the bus controller (`40_bus_phase_controller.md` R118, logs 16, 31). -/
theorem advance_late {strict : Bool} {s t : State} (hr : s.resetIn = none) (hs : s.seq = .idle)
    (ht : s.lateComplete = some t) : advance strict s = .next t := by
  simp [advance, hr, hs, idleStep, ht]

theorem advance_accept {strict : Bool} {s : State} {w : CmdWord} {rest : List CmdWord} {i : Instr}
    (hr : s.resetIn = none) (hs : s.seq = .idle) (hp : ∀ c, s.bench ≠ .presented c) (hh : s.bench ≠ .holding)
    (hl : s.lateDue = false) (hc : s.hostCmds = w :: rest) (hd : decodeCmd w = .ok i) :
    advance strict s = .next ({ s with hostCmds := rest }.accepted i) := by
  have he : exec i { s with hostCmds := rest } = .next ({ s with hostCmds := rest }.accepted i) := exec_idle i hs
  unfold advance idleStep acceptNext
  rw [hr, hs, State.lateComplete_eq_none hl, hc]
  cases hb : s.bench with
  | presented c => exact absurd hb (hp c)
  | holding => exact absurd hb hh
  | idle => simpa [hd, hr, hs, hb] using he

end Sys2Proof.Machine
end

