-- ==== Sys2Proof/Laws/Effects.lean ====
section
/-! SUPPORT. The effect of every step, written out: the closed forms of the completing and accepting operations, and one
inversion lemma, `advance_effect`, that names every next state a step can answer. -/

namespace Sys2Proof.Machine

/-! The patterns as bytes, in the form `simp` leaves them. -/

@[simp] theorem ctrlAfterWrite_A4 (old : Byte) : ctrlAfterWrite old 0xA4#8 = 0x24#8 ||| old &&& 0x08#8 :=
  ctrlAfterWrite_start old
@[simp] theorem ctrlAfterWrite_84 (old : Byte) : ctrlAfterWrite old 0x84#8 = 0x04#8 ||| old &&& 0x08#8 :=
  ctrlAfterWrite_dataNoack old
@[simp] theorem ctrlAfterWrite_C4 (old : Byte) : ctrlAfterWrite old 0xC4#8 = 0x44#8 ||| old &&& 0x08#8 :=
  ctrlAfterWrite_dataAck old
@[simp] theorem ctrlAfterWrite_94 (old : Byte) : ctrlAfterWrite old 0x94#8 = 0x14#8 ||| old &&& 0x08#8 :=
  ctrlAfterWrite_stop old

/-- The attempt gate, both ways (`41_begin_and_retry.md` R132, R137). -/
theorem State.attemptGate_cases (s : State) :
    s.retry.toNat < 50
        ∧ s.attemptGate =
          { s with
            retry := s.retry + 1#6
            seq := .bStart
            bcCtrl := ctrlAfterWrite s.bcCtrl (pat .start)
            hist := s.hist ++ [.req .start s.bcData]
            accesses := s.accesses ++ [.wr .ctrl (pat .start)] }
      ∨ 50 ≤ s.retry.toNat ∧ s.attemptGate = s.raiseFail .beginCmd .budget := by
  by_cases h : s.retry.toNat < 50
  · exact .inl ⟨h, s.attemptGate_below h⟩
  · exact .inr ⟨by omega, s.attemptGate_exhausted (by omega)⟩

/-- Address phase issued (`41_begin_and_retry.md` R134). -/
theorem State.issueAddress_eq (s : State) :
    s.issueAddress =
      { s with
        seq := .bAddr
        bcData := s.ab
        bcCtrl := ctrlAfterWrite s.bcCtrl (pat .dataNoack)
        hist := s.hist ++ [.req .dataNoack s.ab]
        accesses := s.accesses ++ [.wr .data s.ab, .wr .ctrl (pat .dataNoack)] } := by
  simp [State.issueAddress, State.requestPhase_wait, State.writeData]

/-- Accept of WRITE (`42_byte_transfer_and_end.md` R150). -/
theorem State.acceptWrite_eq (s : State) (v : Byte) :
    s.acceptWrite v =
      { s with
        seq := .wData
        bcData := v
        bcCtrl := ctrlAfterWrite s.bcCtrl (pat .dataNoack)
        hist := s.hist ++ [.acc (.writeByte v), .req .dataNoack v]
        accesses := s.accesses ++ [.wr .data v, .wr .ctrl (pat .dataNoack)] } := by
  simp [State.acceptWrite, State.requestPhase_wait]

/-- Accept of READ (`42_byte_transfer_and_end.md` R152). -/
theorem State.acceptRead_eq (s : State) (a : Bool) :
    s.acceptRead a =
      { s with
        seq := .rData
        ackreq := a
        bcCtrl := ctrlAfterWrite s.bcCtrl (pat (readPhase a))
        hist := s.hist ++ [.acc (.readByte a), .req (readPhase a) s.bcData]
        accesses := s.accesses ++ [.wr .ctrl (pat (readPhase a))] } := by
  simp [State.acceptRead, State.requestPhase_wait, readPhase_ne_stop]

/-- END (`42_byte_transfer_and_end.md` R155). -/
theorem State.acceptEnd_eq (s : State) :
    s.acceptEnd =
      { s with
        seq := .idle
        result := 0x00#8
        bcCtrl := ctrlAfterWrite s.bcCtrl (pat .stop)
        hist := s.hist ++ [.acc .endTransaction, .req .stop s.bcData, .rsp .endCmd 0x00#8 s.rdata]
        accesses := s.accesses ++ [.wr .ctrl (pat .stop)]
        held := false
        bcStatus := (s.stopLeaves.head?.map Answer.s).getD s.bcStatus
        bcData := (s.stopLeaves.head?.map Answer.d).getD s.bcData
        stopLeaves := s.stopLeaves.tail } := by
  simp [State.acceptEnd, State.requestPhase_stop, State.returnOk, State.record, Config.resultOk]

/-- Illegal command word (`60_exceptions.md` R205). -/
theorem State.acceptIllegal_eq (s : State) (w : CmdWord) :
    s.acceptIllegal w =
      { s with
        seq := .idle
        result := 0xFF#8
        hist := s.hist ++ [.accIllegal w, .fail .illegal, .rsp .illegalCmd 0xFF#8 s.rdata] } := by
  simp [State.acceptIllegal, State.raiseFail, State.record, Config.resultFail]

theorem decodePhase_cases (c : PhaseCode) :
    decodePhase c = .phStart ∨ decodePhase c = .phDataNoack ∨ decodePhase c = .phDataAck
      ∨ decodePhase c = .phStop ∧ c = 0b11#2 := by
  revert c; decide

theorem hostCommand_cases {i : Instr} (h : i.isHostCommand = true) :
    (∃ id sub dir, i = .beginTransaction id sub dir) ∨ (∃ v, i = .writeByte v) ∨ (∃ a, i = .readByte a)
      ∨ i = .endTransaction := by
  cases i <;> simp [Instr.isHostCommand] at h ⊢

/-- Every next state a step can answer, with what the step required (`44_master_fsm.md` R192, R193). -/
inductive StepEffect (strict : Bool) (s : State) : State → Prop
  | reset u (hr : s.resetIn = some u) : StepEffect strict s (s.takeReset u)
  | bus p x rest (hr : s.resetIn = none) (hw : s.seq ≠ .idle ∨ s.seq = .idle ∧ s.bench = .holding)
      (hf : s.intFlag = false) (hl : lastPhase s.bcCtrl = some p) (hp : p ≠ .stop) (ha : s.answers = x :: rest) :
      StepEffect strict s
        { s with
          bcStatus := x.s
          bcData := x.d
          bcCtrl := ctrlCompleted s.bcCtrl
          answers := rest
          hist := s.hist ++ [.cpl p x.s x.d] }
  | late p x rest (hr : s.resetIn = none) (hs : s.seq = .idle) (hd : s.lateDue = true) (hh : s.bench ≠ .holding)
      (hf : s.intFlag = false) (hl : lastPhase s.bcCtrl = some p) (hp : p ≠ .stop) (ha : s.answers = x :: rest) :
      StepEffect strict s
        { s with
          bcStatus := x.s
          bcData := x.d
          bcCtrl := ctrlCompleted s.bcCtrl
          answers := rest
          hist := s.hist ++ [.cpl p x.s x.d]
          held := if p = .start then noteStart (cond (maskStatus x.s)) s.held else s.held }
  | retry (hr : s.resetIn = none) (hf : s.intFlag = true)
      (hs : s.seq = .bStart ∧ cond s.status = .arbLost
        ∨ s.seq = .bAddr ∧ addrVerdict strict (directionOf s.ab) (cond s.status) = .retry)
      (h : s.retry.toNat < 50) :
      StepEffect strict s
        { s with
          retry := s.retry + 1#6
          seq := .bStart
          bcCtrl := ctrlAfterWrite s.bcCtrl (pat .start)
          hist := s.hist ++ [.req .start s.bcData]
          accesses := s.accesses ++ [.rd .ctrl s.bcCtrl, .rd .status s.bcStatus, .wr .ctrl (pat .start)] }
  | fail k c (hr : s.resetIn = none) (hf : s.intFlag = true)
      (hk : s.seq = .bStart ∧ k = .beginCmd
          ∧ (c = .startSeq ∨ c = .budget ∧ cond s.status = .arbLost ∧ 50 ≤ s.retry.toNat)
        ∨ s.seq = .bAddr ∧ k = .beginCmd
          ∧ (c = .addrSeq
            ∨ c = .budget ∧ addrVerdict strict (directionOf s.ab) (cond s.status) = .retry ∧ 50 ≤ s.retry.toNat)
        ∨ s.seq = .wData ∧ k = .writeCmd ∧ c = .dataWrite
        ∨ s.seq = .rData ∧ k = .readCmd ∧ c = .dataRead) :
      StepEffect strict s
        { s with
          seq := .idle
          result := 0xFF#8
          hist := s.hist ++ [.fail c, .rsp k 0xFF#8 s.rdata]
          accesses := s.accesses ++ [.rd .ctrl s.bcCtrl, .rd .status s.bcStatus] }
  | issue (hr : s.resetIn = none) (hf : s.intFlag = true) (hs : s.seq = .bStart)
      (hc : cond s.status = .startTx ∨ cond s.status = .rstartTx) :
      StepEffect strict s
        { s with
          seq := .bAddr
          held := true
          bcData := s.ab
          bcCtrl := ctrlAfterWrite s.bcCtrl (pat .dataNoack)
          hist := s.hist ++ [.req .dataNoack s.ab]
          accesses := s.accesses ++
            [.rd .ctrl s.bcCtrl, .rd .status s.bcStatus, .wr .data s.ab, .wr .ctrl (pat .dataNoack)] }
  | ok k (hr : s.resetIn = none) (hf : s.intFlag = true)
      (hk : s.seq = .bAddr ∧ k = .beginCmd ∨ s.seq = .wData ∧ k = .writeCmd) :
      StepEffect strict s
        { s with
          seq := .idle
          result := 0x00#8
          hist := s.hist ++ [.rsp k 0x00#8 s.rdata]
          accesses := s.accesses ++ [.rd .ctrl s.bcCtrl, .rd .status s.bcStatus] }
  | readOk (hr : s.resetIn = none) (hf : s.intFlag = true) (hs : s.seq = .rData)
      (hc : cond s.status = wantedCond s.ackreq) :
      StepEffect strict s
        { s with
          seq := .idle
          rdata := s.bcData
          result := 0x00#8
          hist := s.hist ++ [.rsp .readCmd 0x00#8 s.bcData]
          accesses := s.accesses ++ [.rd .ctrl s.bcCtrl, .rd .status s.bcStatus, .rd .data s.bcData] }
  | benchReturn b (hr : s.resetIn = none) (hs : s.seq = .idle) (hb : s.bench = .holding) (hf : s.intFlag = true) :
      StepEffect strict s
        { s with
          bench := .idle
          held := b
          accesses := s.accesses ++ [.rd .ctrl s.bcCtrl, .rd .status s.bcStatus] }
  | benchWait p c (hr : s.resetIn = none) (hs : s.seq = .idle) (hb : s.bench = .presented c) (hp : p ≠ .stop) :
      StepEffect strict s
        { s with
          bcCtrl := ctrlAfterWrite s.bcCtrl (pat p)
          hist := s.hist ++ [.req p s.bcData]
          accesses := s.accesses ++ [.wr .ctrl (pat p)]
          bench := .holding }
  | benchStop (hr : s.resetIn = none) (hs : s.seq = .idle) (hb : s.bench = .presented 0b11#2) :
      StepEffect strict s
        { s with
          bcCtrl := ctrlAfterWrite s.bcCtrl (pat .stop)
          hist := s.hist ++ [.req .stop s.bcData]
          accesses := s.accesses ++ [.wr .ctrl (pat .stop)]
          held := false
          bcStatus := (s.stopLeaves.head?.map Answer.s).getD s.bcStatus
          bcData := (s.stopLeaves.head?.map Answer.d).getD s.bcData
          stopLeaves := s.stopLeaves.tail
          bench := .idle }
  | accept w rest i t (hr : s.resetIn = none) (hs : s.seq = .idle) (hp : ∀ c, s.bench ≠ .presented c)
      (hh : s.bench ≠ .holding) (hc : s.hostCmds = w :: rest) (hd : decodeCmd w = .ok i)
      (hi : i.isHostCommand = true) (ht : t = { s with hostCmds := rest }.accepted i) : StepEffect strict s t
  | illegal w rest e (hr : s.resetIn = none) (hs : s.seq = .idle) (hp : ∀ c, s.bench ≠ .presented c)
      (hh : s.bench ≠ .holding) (hc : s.hostCmds = w :: rest) (hd : decodeCmd w = .error e) :
      StepEffect strict s
        { s with
          hostCmds := rest
          seq := .idle
          result := 0xFF#8
          hist := s.hist ++ [.accIllegal w, .fail .illegal, .rsp .illegalCmd 0xFF#8 s.rdata] }

/-- The status is read once (`40_bus_phase_controller.md` R116). -/
theorem State.takeStatus_eq (s : State) :
    s.takeStatus = { s with accesses := s.accesses ++ [.rd .ctrl s.bcCtrl, .rd .status s.bcStatus] } := by
  simp [State.takeStatus, State.memRead, State.bc]

/-- The return of a direct call: the value, and the state it leaves (`40_bus_phase_controller.md` R115 to R117). -/
theorem State.returnPhase_fst (s : State) : s.returnPhase.1 = s.status := rfl

theorem State.returnPhase_snd (s : State) :
    s.returnPhase.2 =
      { s with
        bench := .idle
        held := if lastPhase s.bcCtrl = some .start then noteStart (cond s.status) s.held else s.held
        accesses := s.accesses ++ [.rd .ctrl s.bcCtrl, .rd .status s.bcStatus] } := by
  rw [State.returnPhase, State.takeStatus_eq, State.heldAfterPhase]

/-- A failure (`60_exceptions.md` R207). -/
theorem State.raiseFail_eq (s : State) (k : CmdKind) (c : Cause) :
    s.raiseFail k c =
      { s with seq := .idle, result := 0xFF#8, hist := s.hist ++ [.fail c, .rsp k 0xFF#8 s.rdata] } := by
  simp [State.raiseFail, State.record, Config.resultFail]

/-- A success (`41_begin_and_retry.md` R136). -/
theorem State.returnOk_eq (s : State) (k : CmdKind) :
    s.returnOk k = { s with seq := .idle, result := 0x00#8, hist := s.hist ++ [.rsp k 0x00#8 s.rdata] } := by
  simp [State.returnOk, State.record, Config.resultOk]

/-- A step answers one of these states. -/
theorem advance_effect {strict : Bool} {s t : State} (h : advance strict s = .next t) :
    StepEffect strict s t := by
  cases advance_cases h with
  | reset u hr ht => subst ht; exact .reset u hr
  | bus hr hw hf ht =>
    obtain ⟨p, x, rest, ho, ha, rfl⟩ := State.busComplete_eq_some.1 ht
    obtain ⟨_, hl, hp⟩ := (outstandingPhase_eq_some _ _).1 ho
    exact .bus p x rest hr hw hf hl hp ha
  | late u hr hs hd hu ht =>
    obtain ⟨p, x, rest, ho, ha, rfl⟩ := State.busComplete_eq_some.1 hu
    obtain ⟨hf, hl, hp⟩ := (outstandingPhase_eq_some _ _).1 ho
    subst ht
    have := StepEffect.late (strict := strict) p x rest hr hs hd (State.lateDue_eq_true.1 hd).2.1 hf hl hp ha
    simpa [State.heldAfterPhase, State.status, hl] using this
  | start hr hs hf ht =>
    subst ht
    unfold State.completeStart
    split
    · next hc =>
      rcases State.attemptGate_cases s.takeStatus with ⟨h1, h2⟩ | ⟨h1, h2⟩ <;> rw [h2]
      · have := StepEffect.retry (strict := strict) hr hf (.inl ⟨hs, hc⟩) h1
        simpa [State.takeStatus_eq] using this
      · rw [State.raiseFail_eq, State.takeStatus_eq]
        exact .fail _ _ hr hf (.inl ⟨hs, rfl, .inr ⟨rfl, hc, h1⟩⟩)
    · split
      · rw [State.raiseFail_eq, State.takeStatus_eq]; exact .fail _ _ hr hf (.inl ⟨hs, rfl, .inl rfl⟩)
      · next h1 h2 =>
        have hc : cond s.status = .startTx ∨ cond s.status = .rstartTx := by
          by_contra hx; simp at hx; exact h2 hx
        have := StepEffect.issue (strict := strict) hr hf hs hc
        rw [State.issueAddress_eq]
        rcases hc with hc | hc <;> simpa [State.takeStatus_eq, noteStart, hc] using this
  | address hr hs hf ht =>
    subst ht
    unfold State.completeAddress
    split
    · next hc =>
      rcases State.attemptGate_cases s.takeStatus with ⟨h1, h2⟩ | ⟨h1, h2⟩ <;> rw [h2]
      · have := StepEffect.retry (strict := strict) hr hf (.inr ⟨hs, hc⟩) h1
        simpa [State.takeStatus_eq] using this
      · rw [State.raiseFail_eq, State.takeStatus_eq]
        exact .fail _ _ hr hf (.inr <| .inl ⟨hs, rfl, .inr ⟨rfl, hc, h1⟩⟩)
    · rw [State.raiseFail_eq, State.takeStatus_eq]; exact .fail _ _ hr hf (.inr <| .inl ⟨hs, rfl, .inl rfl⟩)
    · rw [State.returnOk_eq, State.takeStatus_eq]; exact .ok _ hr hf (.inl ⟨hs, rfl⟩)
  | write hr hs hf ht =>
    subst ht
    unfold State.completeWrite
    split
    · rw [State.returnOk_eq, State.takeStatus_eq]; exact .ok _ hr hf (.inr ⟨hs, rfl⟩)
    · rw [State.raiseFail_eq, State.takeStatus_eq]; exact .fail _ _ hr hf (.inr <| .inr <| .inl ⟨hs, rfl, rfl⟩)
  | read hr hs hf ht =>
    subst ht
    unfold State.completeRead
    split
    · next hc =>
      have := StepEffect.readOk (strict := strict) hr hf hs hc
      rw [State.returnOk_eq, State.takeData, State.takeStatus_eq]
      simpa [State.memRead, State.bc] using this
    · rw [State.raiseFail_eq, State.takeStatus_eq]; exact .fail _ _ hr hf (.inr <| .inr <| .inr ⟨hs, rfl, rfl⟩)
  | benchReturn hr hs hb hf ht =>
    subst ht
    rw [State.returnPhase_snd]
    exact .benchReturn _ hr hs hb hf
  | benchCall c hr hs hb ht =>
    subst ht
    rcases decodePhase_cases c with hc | hc | hc | ⟨hc, hcc⟩ <;> rw [hc]
    · have := StepEffect.benchWait (strict := strict) .start c hr hs hb (by simp)
      simpa [State.accepted, State.requestPhase_wait] using this
    · have := StepEffect.benchWait (strict := strict) .dataNoack c hr hs hb (by simp)
      simpa [State.accepted, State.requestPhase_wait] using this
    · have := StepEffect.benchWait (strict := strict) .dataAck c hr hs hb (by simp)
      simpa [State.accepted, State.requestPhase_wait] using this
    · subst hcc
      have := StepEffect.benchStop (strict := strict) hr hs hb
      simpa [State.accepted, State.requestPhase_stop] using this
  | accept w rest i hr hs hp hh hc hd ht =>
    exact .accept w rest i t hr hs hp hh hc hd (decodeCmd_isHostCommand hd) ht
  | illegal w rest e hr hs hp hh hc hd ht =>
    subst ht
    rw [State.acceptIllegal_eq]; exact .illegal w rest e hr hs hp hh hc hd

end Sys2Proof.Machine
end

