-- ==== Sys2Proof/Laws/Command.lean ====
section
/-! SUPPORT. The command-level function one phase at a time, runs of several steps, and counts over the history. -/

namespace Sys2Proof.Machine

/-- The state after a driven phase that was answered by `x` (`40_bus_phase_controller.md` R110, R116, R118). -/
def State.driven (p : Phase) (x : Answer) (rest : List Answer) (s : State) : State :=
  { s with
    bcStatus := x.s
    bcData := x.d
    bcCtrl := ctrlCompleted (ctrlAfterWrite s.bcCtrl (pat p))
    answers := rest
    hist := s.hist ++ [.req p s.bcData, .cpl p x.s x.d]
    accesses := s.accesses ++
      [.wr .ctrl (pat p), .rd .ctrl (ctrlCompleted (ctrlAfterWrite s.bcCtrl (pat p))), .rd .status x.s] }

/-- `drive_phase` takes the head of the answers and hangs without one (`44_master_fsm.md` R194). -/
theorem drivePhase_eq (p : Phase) (s : State) (hp : p ≠ .stop) :
    drivePhase p s =
      match s.answers with
      | [] => none
      | x :: rest => some (maskStatus x.s, s.driven p x rest) := by
  unfold drivePhase
  rw [State.busComplete_requestPhase s hp]
  cases s.answers with
  | nil => rfl
  | cons x rest => simp [State.driven, State.takeStatus_eq, State.status]

/-- A direct call of a phase that is waited for: its one request, answer and status (`40_bus_phase_controller.md` R110). -/
theorem phaseCall_wait (p : Phase) (s : State) (hp : p ≠ .stop) :
    phaseCall p s =
      (drivePhase p s).map fun r =>
        (r.1,
          { r.2 with
            bench := .idle
            held := if p = .start then noteStart (cond r.1) r.2.held else r.2.held }) := by
  cases p <;> first | rfl | exact absurd rfl hp

/-- The command-level function of a legal and of an illegal word (`44_master_fsm.md` R194). -/
theorem wholeWord_of_ok {strict : Bool} {w : CmdWord} {i : Instr} {s : State} (h : decodeCmd w = .ok i) :
    wholeWord strict w s = whole strict i s := by
  simp [wholeWord, h]

theorem wholeWord_of_error {strict : Bool} {w : CmdWord} {e : DecodeError} {s : State} (h : decodeCmd w = .error e) :
    wholeWord strict w s = some (s.acceptIllegal w) := by
  simp [wholeWord, h]

theorem advanceN_succ_of_next {strict : Bool} {n : Nat} {s t : State} (h : advance strict s = .next t) :
    advanceN strict (n + 1) s = advanceN strict n t := by
  simp [advanceN, h]

theorem advanceN_succ_of_fault {strict : Bool} {n : Nat} {s : State} {r : Fault}
    (h : advance strict s = .fault r) : advanceN strict (n + 1) s = .fault r := by
  simp [advanceN, h]

theorem startRequests_append (a b : List Event) : startRequests (a ++ b) = startRequests a + startRequests b := by
  simp [startRequests]

theorem dataNoackRequests_append (a b : List Event) :
    dataNoackRequests (a ++ b) = dataNoackRequests a + dataNoackRequests b := by
  simp [dataNoackRequests]

theorem stopRequests_append (a b : List Event) : stopRequests (a ++ b) = stopRequests a + stopRequests b := by
  simp [stopRequests]

theorem responses_append (a b : List Event) : responses (a ++ b) = responses a ++ responses b := by
  simp [responses]

end Sys2Proof.Machine
end

