-- ==== Sys2Proof/Laws/PerInstr.lean ====
section
/-! SUPPORT. A statement about every instruction as syntax, made per instruction: the word of a host command is selected
by the row of `30_encoding.md` R82 that has its mnemonic, and the phase micro-operations have no command word. -/

namespace Sys2Proof.Laws.SelectsRow

/-- The mnemonic of an instruction's row in `30_encoding.md` R82. -/
def rowName : Instr → Option String
  | .beginTransaction _ _ _ => some "BEGIN"
  | .writeByte _ => some "WRITE"
  | .readByte _ => some "READ"
  | .endTransaction => some "END"
  | .phStart => none
  | .phDataNoack => none
  | .phDataAck => none
  | .phStop => none

/-- An encoded host command is selected by its own row, and only host commands are encoded as command words. -/
def Statement (i : Instr) : Prop :=
  match encode i with
  | .cmd w => i.isHostCommand = true ∧ ∃ r ∈ cmdRows, r.selects w = true ∧ rowName i = some r.mnemonic
  | .phase _ => i.isHostCommand = false ∧ rowName i = none

/-- The fixed bits of the four command formats. -/
theorem begin_fixed (id sub : Byte) (dir : Direction) : beginWord id sub dir &&& 0x60000#19 = 0x00000#19 := by
  apply BitVec.eq_of_getLsbD_eq
  intro k hk
  simp only [beginWord, CmdWord.mk, BitVec.getLsbD_and, BitVec.getLsbD_append]
  interval_cases k <;> simp

theorem write_fixed (v : Byte) : writeWord v &&& 0x7FF00#19 = 0x20000#19 := by
  apply BitVec.eq_of_getLsbD_eq
  intro k hk
  simp only [writeWord, CmdWord.mk, BitVec.getLsbD_and, BitVec.getLsbD_append]
  interval_cases k <;> simp

theorem beginTransaction (id sub : Byte) (dir : Direction) : Statement (.beginTransaction id sub dir) :=
  ⟨rfl, cmdRows[0], by simp [cmdRows], by simp [cmdRows, CmdRow.selects, begin_fixed], rfl⟩

theorem writeByte (v : Byte) : Statement (.writeByte v) :=
  ⟨rfl, cmdRows[1], by simp [cmdRows], by simp [cmdRows, CmdRow.selects, write_fixed], rfl⟩

theorem readByte (a : Bool) : Statement (.readByte a) :=
  ⟨rfl, cmdRows[2], by simp [cmdRows], by cases a <;> decide, rfl⟩

theorem endTransaction : Statement .endTransaction := ⟨rfl, cmdRows[3], by simp [cmdRows], by decide, rfl⟩

theorem phStart : Statement .phStart := ⟨rfl, rfl⟩

theorem phDataNoack : Statement .phDataNoack := ⟨rfl, rfl⟩

theorem phDataAck : Statement .phDataAck := ⟨rfl, rfl⟩

theorem phStop : Statement .phStop := ⟨rfl, rfl⟩

end Sys2Proof.Laws.SelectsRow
end

