-- ==== Sys2Proof/Laws/Safety.lean ====
section
/-! SUPPORT. The host's duties: what a move and an event do to the END owed, and what a usable byte tells. -/

namespace Sys2Proof.Machine

@[simp] theorem owedBy_nil (owed : Bool) : owedBy owed [] = owed := rfl

@[simp] theorem owedBy_cons (owed : Bool) (m : Move) (ms : List Move) :
    owedBy owed (m :: ms) = owedBy (m.owesAfter owed) ms := rfl

@[simp] theorem pairsStartStop_nil (owed : Bool) : pairsStartStop owed [] = !owed := rfl

@[simp] theorem pairsStartStop_reset (owed : Bool) (ms : List Move) :
    pairsStartStop owed (.reset :: ms) = (!owed && pairsStartStop owed ms) := rfl

@[simp] theorem pairsStartStop_command (owed : Bool) (i : Instr) (ms : List Move) :
    pairsStartStop owed (.command i :: ms) = pairsStartStop (owesAfter owed i) ms := rfl

theorem moveOf_of_ok {w : CmdWord} {i : Instr} (h : decodeCmd w = .ok i) : moveOf w = some (.command i) := by
  simp [moveOf, h]

theorem moveOf_of_error {w : CmdWord} {e : DecodeError} (h : decodeCmd w = .error e) : moveOf w = none := by
  simp [moveOf, h]

/-- What new events do to the END owed: the form every step lemma gives `hist` in. -/
theorem owesEnd_of_hist {s t : State} {es : List Event} (h : t.hist = s.hist ++ es) :
    t.owesEnd = es.foldl Event.owesAfter s.owesEnd := by
  rw [State.owesEnd, h, List.foldl_append, State.owesEnd]

/-- A reset keeps the END owed while it clears the ghost bit (`70_reset_and_hazards.md` R230, R231, log 18). -/
theorem State.takeReset_owesEnd (s : State) (u : ResetLeaves) : (s.takeReset u).owesEnd = s.owesEnd := rfl

/-- What accepting a host command does to the END owed (`70_reset_and_hazards.md` R240). -/
theorem State.accepted_owesEnd (s : State) {i : Instr} (h : i.isHostCommand = true) :
    (s.accepted i).owesEnd = owesAfter s.owesEnd i := by
  obtain ⟨id, sub, dir, rfl⟩ | ⟨v, rfl⟩ | ⟨a, rfl⟩ | rfl := hostCommand_cases h
  · exact owesEnd_of_hist (s := s) (congrArg State.hist (s.acceptBegin_eq id sub dir))
  · exact owesEnd_of_hist (s := s) (congrArg State.hist (s.acceptWrite_eq v))
  · exact owesEnd_of_hist (s := s) (congrArg State.hist (s.acceptRead_eq a))
  · exact owesEnd_of_hist (s := s) (congrArg State.hist s.acceptEnd_eq)

/-- A byte a host may use is that of a successful READ after successful BEGINs and WRITEs (`70_reset_and_hazards.md` R242). -/
theorem usableData_eq_some {before : List Response} {r : Response} {b : Byte} (h : usableData before r = some b) :
    r.kind = .readCmd ∧ r.result = Config.resultOk ∧ r.rdata = b
      ∧ ∀ q ∈ before, preparesRead q.kind = true → q.result = Config.resultOk := by
  unfold usableData at h
  split at h
  · next hc => exact ⟨hc.1, hc.2.1, by simpa using h, hc.2.2⟩
  · cases h

end Sys2Proof.Machine
end

