-- ==== Sys2Proof/Tests/Slice0.lean ====
section
/-! SUPPORT. The model's own tests, each a named theorem. Expected results are those of `spec/95_test_vectors.md` (the
vector's number stands in the comment) or of the spec's tables. `witness_<statement>` theorems show states and operands
that meet a statement's hypotheses, one for each clause, at boundary values. -/

namespace Sys2Proof.Tests

open Sys2Proof.Machine

/-! ### WellFormed: ill-formed words and programs are refused -/

/-- E9: reserved bit 8 of WRITE. -/
theorem test_wf_refuses_write_field_a : legalWord 0x20100#19 = false := by decide
/-- E10: reserved bit 16 of WRITE. -/
theorem test_wf_refuses_write_flag : legalWord 0x30009#19 = false := by decide
/-- E13: reserved bit 0 of READ. -/
theorem test_wf_refuses_read_field_b : legalWord 0x40001#19 = false := by decide
/-- E15: reserved bit 16 of END. -/
theorem test_wf_refuses_end_flag : legalWord 0x70000#19 = false := by decide
/-- E16: all reserved bits of END. -/
theorem test_wf_refuses_end_all : legalWord 0x7FFFF#19 = false := by decide
/-- U7: a program with one illegal word is refused, P7 is not. -/
theorem test_wf_refuses_program : legalProgram [0x09000#19, 0x20100#19, 0x60000#19] = false := by decide
theorem test_wf_accepts_program : legalProgram [0x09000#19, 0x200EE#19, 0x60000#19] = true := by decide
/-- R88: a phase micro-operation is no host command. -/
theorem test_wf_phase_is_no_host_command :
    [Instr.phStart, .phDataNoack, .phDataAck, .phStop].map Instr.isHostCommand = [false, false, false, false] := by
  decide

/-! ### Decode: words written bit by bit as op, f, a, b (`30_encoding.md` R81, R88) -/

/-- E2: op 00, f 1, a 01000000, b 00000010. -/
theorem test_decode_begin :
    decodeCmd 0b0010100000000000010#19 = .ok (.beginTransaction 0x40#8 0x02#8 .read) := by rfl
/-- E7: op 01, f 0, a 00000000, b 00001001. -/
theorem test_decode_write : decodeCmd 0b0100000000000001001#19 = .ok (.writeByte 0x09#8) := by rfl
/-- E12: op 10, f 1. -/
theorem test_decode_read_ack : decodeCmd 0b1010000000000000000#19 = .ok (.readByte true) := by rfl
/-- E11: op 10, f 0. -/
theorem test_decode_read_nack : decodeCmd 0b1000000000000000000#19 = .ok (.readByte false) := by rfl
/-- E14: op 11. -/
theorem test_decode_end : decodeCmd 0b1100000000000000000#19 = .ok .endTransaction := by rfl
theorem test_decode_phStart : decodePhase 0b00#2 = .phStart := by decide
theorem test_decode_phDataNoack : decodePhase 0b01#2 = .phDataNoack := by decide
theorem test_decode_phDataAck : decodePhase 0b10#2 = .phDataAck := by decide
theorem test_decode_phStop : decodePhase 0b11#2 = .phStop := by decide
/-- E9, E13, E16: rejected by name. -/
theorem test_decode_rejects :
    decodeCmd 0x20100#19 = .error .reservedBitsOfWrite ∧ decodeCmd 0x40001#19 = .error .reservedBitsOfRead
      ∧ decodeCmd 0x7FFFF#19 = .error .reservedBitsOfEnd := ⟨rfl, rfl, rfl⟩

/-! ### Operands -/

/-- A5, A7, A8, A10 of the address byte. -/
theorem test_address_byte :
    addressByte 0x41#8 0x02#8 .write = 0x42#8 ∧ addressByte 0x40#8 0x40#8 .read = 0x41#8
      ∧ addressByte 0xFF#8 0xFF#8 .write = 0xFE#8 ∧ addressByte 0x40#8 0x0E#8 .write = 0x4E#8 := by decide
/-- M3, M6, M8, M11, M12 of the status masking and classification. -/
theorem test_status :
    cond (maskStatus 0x0F#8) = .startTx ∧ cond (maskStatus 0x3B#8) = .arbLost
      ∧ cond (maskStatus 0x07#8) = .other 0x00#8 ∧ cond (maskStatus 0x60#8) = .other 0x60#8
      ∧ cond (maskStatus 0x5A#8) = .dataRxNack := by decide

/-- R202: the class column (the class of BUDGET by its last status: log 33). -/
theorem test_error_class :
    errorClass .budget .slawNack = some .peerNack ∧ errorClass .dataWrite .dataTxNack = some .peerNack
      ∧ errorClass .dataWrite .arbLost = some .sequence ∧ errorClass .illegal (.other 0x00#8) = none := by decide
/-- R21: the codes, and the three unused ones. -/
theorem test_seq_codes :
    [Seq.idle, .bStart, .bAddr, .wData, .rData].map (fun q => (seqCode q).toNat) = [0, 1, 2, 3, 4]
      ∧ seqOfCode 0b101#3 = .idle ∧ seqOfCode 0b111#3 = .idle := by decide

/-! ### One step on a small state -/

/-- What a step answers, if it is a state. -/
def next? (o : Host.Outcome State Fault Refusal) : Option State :=
  match o with
  | .next t => some t
  | .fault _ => none
  | .refused _ => none

/-- An idle CORE with the bus held, `retry = 7` and `RDATA = 0xA5`, as in vectors 2.6 to 2.8, and one command word. -/
def idleWith (w : CmdWord) : State :=
  { State.reset with retry := 7#6, rdata := 0xA5#8, held := true, hostCmds := [w] }

/-- A CORE that waits in `q` for phase `p`. -/
def waitingIn (q : Seq) (p : Phase) (retry : Counter) : State :=
  { State.reset with
    seq := q
    retry := retry
    ab := 0x42#8
    ackreq := p == .dataAck
    rdata := 0xA5#8
    held := q != .bStart
    bcCtrl := requestBits (pat p) }

/-- The same CORE once the phase has completed with the raw status `s` and the byte `d`. -/
def completedIn (q : Seq) (p : Phase) (retry : Counter) (s d : Byte) : State :=
  { waitingIn q p retry with bcCtrl := ctrlCompleted (requestBits (pat p)), bcStatus := s, bcData := d }

/-- B1, first step: `BEGIN 0x40, 0x02, W`. -/
theorem test_begin_accept :
    (next? (step (idleWith 0x04002#19))).map (fun t => (t.seq, t.retry, t.ab, t.accesses))
      = some (.bStart, 1#6, 0x42#8, [.wr .ctrl 0xA4#8]) := by decide
/-- B4: after the 50th attempt the 51st START is not requested. -/
theorem test_begin_budget :
    (next? (step (completedIn .bStart .start 50#6 0x38#8 0x00#8))).map (fun t => (t.result, t.retry, t.seq, t.hist))
      = some (0xFF#8, 50#6, .idle, [.fail .budget, .rsp .beginCmd 0xFF#8 0xA5#8]) := by decide
/-- W1, first step: the byte is loaded before the phase is requested. -/
theorem test_write_accept :
    (next? (step (idleWith 0x20009#19))).map (fun t => (t.seq, t.retry, t.bcData, t.accesses))
      = some (.wData, 7#6, 0x09#8, [.wr .data 0x09#8, .wr .ctrl 0x84#8]) := by decide
/-- W3, last step: arbitration lost is not retried. -/
theorem test_write_arb_lost :
    (next? (step (completedIn .wData .dataNoack 7#6 0x38#8 0x00#8))).map (fun t => (t.seq, t.result, t.retry))
      = some (.idle, 0xFF#8, 7#6) := by decide
/-- RD6, last step. -/
theorem test_read_ack_completes :
    (next? (step (completedIn .rData .dataAck 7#6 0x50#8 0x7F#8))).map (fun t => (t.seq, t.result, t.rdata))
      = some (.idle, 0x00#8, 0x7F#8) := by decide
/-- RD2, last step: the ack-sent status when nack was wanted. -/
theorem test_read_mismatch :
    (next? (step (completedIn .rData .dataNoack 7#6 0x50#8 0x1B#8))).map
        (fun t => (t.result, t.rdata, t.accesses.length))
      = some (0xFF#8, 0xA5#8, 2) := by decide
/-- EN1. -/
theorem test_end :
    (next? (step (idleWith 0x60000#19))).map (fun t => (t.seq, t.result, t.held, t.accesses))
      = some (.idle, 0x00#8, false, [.wr .ctrl 0x94#8]) := by decide
/-- IL1. -/
theorem test_illegal :
    (next? (step (idleWith 0x20100#19))).map (fun t => (t.result, t.retry, t.rdata, t.held, t.accesses))
      = some (0xFF#8, 7#6, 0xA5#8, true, []) := by decide
/-- PH1 to PH5: the pattern each call writes, read back from BC.CTRL with INT clear. -/
theorem test_ph_start :
    (next? (exec .phStart State.reset)).map (fun t => (t.bcCtrl, t.accesses)) = some (0x24#8, [.wr .ctrl 0xA4#8]) := by
  decide
theorem test_ph_data_noack :
    (next? (exec .phDataNoack { State.reset with bcData := 0x42#8 })).map (fun t => t.hist)
      = some [.req .dataNoack 0x42#8] := by decide
theorem test_ph_data_ack :
    (next? (exec .phDataAck State.reset)).map (fun t => t.accesses) = some [.wr .ctrl 0xC4#8] := by decide
theorem test_ph_stop :
    (next? (exec .phStop { State.reset with held := true })).map (fun t => (t.held, t.bench, t.accesses))
      = some (false, .idle, [.wr .ctrl 0x94#8]) := by decide
/-- PH2: arbitration lost is returned like any status, low bits masked; the step leaves no call behind. -/
theorem test_ph_returns_masked_status :
    ({ completedIn .idle .start 0#6 0x3B#8 0x00#8 with bench := .holding } : State).returnPhase.1 = 0x38#8
      ∧ (next? (step { completedIn .idle .start 0#6 0x3B#8 0x00#8 with bench := .holding })).map (fun t => t.bench)
        = some .idle := by decide
/-- RS1: a reset in the address step. -/
theorem test_reset_event :
    (next? (step
      { waitingIn .bAddr .dataNoack 12#6 with
        resetIn := some { ab := 0x11#8, ackreq := true, result := 0x22#8, rdata := 0x33#8, bc := none } })).map
        (fun t => (t.seq, t.retry, t.held, t.hist, t.accesses))
      = some (.idle, 0#6, false, [], []) := by decide
/-! ### Witnesses -/

theorem witness_EncodeAfterDecode :
    decode (.cmd 0x1FFFF#19) = .ok (.beginTransaction 0xFF#8 0xFF#8 .read) ∧ decode (.phase 0b11#2) = .ok .phStop :=
  ⟨rfl, rfl⟩

theorem witness_IllegalWords_each_operation :
    (∃ e, decodeCmd 0x20100#19 = .error e) ∧ (∃ e, decodeCmd 0x40001#19 = .error e)
      ∧ (∃ e, decodeCmd 0x70000#19 = .error e) ∧ (∀ e, decodeCmd 0x00000#19 ≠ .error e) :=
  ⟨⟨_, rfl⟩, ⟨_, rfl⟩, ⟨_, rfl⟩, fun _ h => nomatch (show Except.ok _ = Except.error _ from h)⟩

theorem witness_PhaseCodes : decodeCmd 0x60000#19 = .ok .endTransaction := rfl

theorem witness_ControlPatterns : pat .stop = pat .stop := rfl

theorem witness_StatusMask : (0x08#8).extractLsb' 3 5 = (0x0F#8).extractLsb' 3 5 ∧ 0x08#8 ≠ 0x0F#8 := by decide

theorem witness_StatusClassification : Cond.startTx ∈ namedConds ∧ Cond.dataRxNack ∈ namedConds := by decide

/-- DirectPhaseCallRuns: each phase; one call that is answered (PH2), one that hangs (PH6), and STOP (PH5). -/
theorem witness_DirectPhaseCallRuns (p : Phase) :
    ({ State.reset with bench := .presented p.toCode } : State).seq = .idle
      ∧ ({ State.reset with bench := .presented p.toCode } : State).resetIn = none
      ∧ ({ State.reset with bench := .presented p.toCode } : State).lateDue = false
      ∧ ({ State.reset with bench := .presented p.toCode } : State).bench = .presented p.toCode := ⟨rfl, rfl, rfl, rfl⟩

theorem witness_DirectPhaseCallRuns_cases :
    (phaseCall .start { State.reset with answers := [⟨0x3B#8, 0x00#8⟩] }).map Prod.fst = some 0x38#8
      ∧ (phaseCall .start State.reset).isNone = true ∧ (phaseCall .stop State.reset).map Prod.fst = some 0x00#8 := by
  decide

/-- BeginAccepts, WriteAccepts, ReadAccepts, EndCompletes: an idle CORE. -/
theorem witness_Accepts : State.reset.seq = .idle ∧ (idleWith 0x04002#19).seq = .idle := by decide

theorem witness_CommandHeldWhileBusy :
    (waitingIn .rData .dataAck 0#6).seq ≠ .idle ∧ encode (.readByte true) = .cmd 0x50000#19
      ∧ encode (.beginTransaction 0x90#8 0x00#8 .write) = .cmd 0x09000#19
      ∧ encode (.writeByte 0xFF#8) = .cmd 0x200FF#19 ∧ encode .endTransaction = .cmd 0x60000#19 := by decide

theorem witness_IllegalWordAnswered :
    (idleWith 0x20100#19).ready ∧ (idleWith 0x20100#19).hostCmds = [0x20100#19] ∧ legalWord 0x20100#19 = false := by
  decide

/-- No reset is pending, the CORE is in `q` and its phase has completed. -/
abbrev completes (q : Seq) (s : State) : Prop := s.resetIn = none ∧ s.seq = q ∧ s.intFlag = true

/-- The condition a state reports, in the statements' words. -/
abbrev reported (s : State) : Cond := cond (s.bcStatus &&& 0xF8#8)

/-- StartCompleted: arbitration lost at 49 (first clause) and at 50 (second). -/
theorem witness_StartCompleted_arbLost :
    (completes .bStart (completedIn .bStart .start 49#6 0x3F#8 0x00#8)
        ∧ reported (completedIn .bStart .start 49#6 0x3F#8 0x00#8) = .arbLost
        ∧ (completedIn .bStart .start 49#6 0x3F#8 0x00#8).retry.toNat < 50)
      ∧ completes .bStart (completedIn .bStart .start 50#6 0x38#8 0x00#8)
      ∧ reported (completedIn .bStart .start 50#6 0x38#8 0x00#8) = .arbLost
      ∧ 50 ≤ (completedIn .bStart .start 50#6 0x38#8 0x00#8).retry.toNat := by decide

/-- StartCompleted: an unexpected status (B14, third clause) and both START statuses (M3, M4, fourth clause). -/
theorem witness_StartCompleted_others :
    (completes .bStart (completedIn .bStart .start 1#6 0x18#8 0x00#8)
        ∧ reported (completedIn .bStart .start 1#6 0x18#8 0x00#8) ≠ .arbLost
        ∧ reported (completedIn .bStart .start 1#6 0x18#8 0x00#8) ≠ .startTx
        ∧ reported (completedIn .bStart .start 1#6 0x18#8 0x00#8) ≠ .rstartTx)
      ∧ (completes .bStart (completedIn .bStart .start 1#6 0x0F#8 0x00#8)
        ∧ reported (completedIn .bStart .start 1#6 0x0F#8 0x00#8) = .startTx)
      ∧ completes .bStart (completedIn .bStart .start 50#6 0x10#8 0x00#8)
      ∧ reported (completedIn .bStart .start 50#6 0x10#8 0x00#8) = .rstartTx := by decide

/-- AddressCompleted, first and second clause: an address not acknowledged at 49 and at 50, and arbitration lost. The
latched byte is 0x42, a write; both settings. -/
theorem witness_AddressCompleted_retry :
    (completes .bAddr (completedIn .bAddr .dataNoack 49#6 0x20#8 0x00#8)
        ∧ isAddrNack true (directionOf 0x42#8) (reported (completedIn .bAddr .dataNoack 49#6 0x20#8 0x00#8)) = true
        ∧ (completedIn .bAddr .dataNoack 49#6 0x20#8 0x00#8).retry.toNat < 50)
      ∧ (completes .bAddr (completedIn .bAddr .dataNoack 50#6 0x48#8 0x00#8)
        ∧ isAddrNack false (directionOf 0x42#8) (reported (completedIn .bAddr .dataNoack 50#6 0x48#8 0x00#8)) = true
        ∧ 50 ≤ (completedIn .bAddr .dataNoack 50#6 0x48#8 0x00#8).retry.toNat)
      ∧ completes .bAddr (completedIn .bAddr .dataNoack 1#6 0x38#8 0x00#8)
      ∧ reported (completedIn .bAddr .dataNoack 1#6 0x38#8 0x00#8) = .arbLost := by decide

/-- AddressCompleted, third clause (B10, and 0x48 under the strict setting, B16s) and fourth (B1). -/
theorem witness_AddressCompleted_others :
    (completes .bAddr (completedIn .bAddr .dataNoack 1#6 0x28#8 0x00#8)
        ∧ reported (completedIn .bAddr .dataNoack 1#6 0x28#8 0x00#8) = .dataTxAck
        ∧ isAddrNack false .write .dataTxAck = false ∧ isAddrAck false .write .dataTxAck = false)
      ∧ (reported (completedIn .bAddr .dataNoack 1#6 0x48#8 0x00#8) = .slarNack
        ∧ isAddrNack true .write .slarNack = false ∧ isAddrAck true .write .slarNack = false)
      ∧ completes .bAddr (completedIn .bAddr .dataNoack 50#6 0x18#8 0x00#8)
      ∧ isAddrAck true (directionOf 0x42#8) (reported (completedIn .bAddr .dataNoack 50#6 0x18#8 0x00#8)) = true
      ∧ (completedIn .bAddr .dataNoack 50#6 0x18#8 0x00#8).ab = 0x42#8 ∧ directionOf 0x42#8 = .write := by decide

theorem witness_WriteCompleted :
    (completes .wData (completedIn .wData .dataNoack 7#6 0x2F#8 0x00#8)
        ∧ reported (completedIn .wData .dataNoack 7#6 0x2F#8 0x00#8) = .dataTxAck)
      ∧ completes .wData (completedIn .wData .dataNoack 7#6 0x30#8 0x00#8)
      ∧ reported (completedIn .wData .dataNoack 7#6 0x30#8 0x00#8) ≠ .dataTxAck := by decide

/-- ReadCompleted: both forms, matched and mismatched. -/
theorem witness_ReadCompleted :
    (completes .rData (completedIn .rData .dataAck 0#6 0x50#8 0x00#8)
        ∧ reported (completedIn .rData .dataAck 0#6 0x50#8 0x00#8)
          = wantedCond (completedIn .rData .dataAck 0#6 0x50#8 0x00#8).ackreq)
      ∧ (reported (completedIn .rData .dataAck 0#6 0x58#8 0x00#8)
          ≠ wantedCond (completedIn .rData .dataAck 0#6 0x58#8 0x00#8).ackreq)
      ∧ (completes .rData (completedIn .rData .dataNoack 0#6 0x5F#8 0x00#8)
        ∧ reported (completedIn .rData .dataNoack 0#6 0x5F#8 0x00#8)
          = wantedCond (completedIn .rData .dataNoack 0#6 0x5F#8 0x00#8).ackreq)
      ∧ reported (completedIn .rData .dataNoack 0#6 0x50#8 0x00#8)
        ≠ wantedCond (completedIn .rData .dataNoack 0#6 0x50#8 0x00#8).ackreq := by decide

theorem witness_ReadDeliversAnswerByte :
    ((waitingIn .rData .dataAck 0#6).resetIn = none ∧ (waitingIn .rData .dataAck 0#6).seq = .rData)
      ∧ (waitingIn .rData .dataAck 0#6).intFlag = false
      ∧ lastPhase (waitingIn .rData .dataAck 0#6).bcCtrl = some (readPhase (waitingIn .rData .dataAck 0#6).ackreq)
      ∧ (waitingIn .rData .dataNoack 0#6).intFlag = false
      ∧ lastPhase (waitingIn .rData .dataNoack 0#6).bcCtrl
        = some (readPhase (waitingIn .rData .dataNoack 0#6).ackreq)
      ∧ ({ waitingIn .rData .dataAck 0#6 with answers := [⟨0x50#8, 0x7F#8⟩] } : State).answers
        = [⟨0x50#8, 0x7F#8⟩] := by decide

/-- ReadDeliversAnswerByte, both clauses in both forms: RD6 and RD7, RD8 and RD2. -/
theorem witness_ReadDeliversAnswerByte_clauses :
    cond (0x50#8 &&& 0xF8#8) = wantedCond (waitingIn .rData .dataAck 0#6).ackreq
      ∧ cond (0x58#8 &&& 0xF8#8) ≠ wantedCond (waitingIn .rData .dataAck 0#6).ackreq
      ∧ cond (0x5F#8 &&& 0xF8#8) = wantedCond (waitingIn .rData .dataNoack 0#6).ackreq
      ∧ cond (0x50#8 &&& 0xF8#8) ≠ wantedCond (waitingIn .rData .dataNoack 0#6).ackreq
      ∧ ({ waitingIn .rData .dataAck 0#6 with answers := [⟨0x58#8, 0x7F#8⟩] } : State).answers
        = [⟨0x58#8, 0x7F#8⟩] := by decide

theorem witness_BudgetExhausted :
    ∃ t, advance false (completedIn .bStart .start 50#6 0x38#8 0x00#8) = .next t
      ∧ ∃ new, t.hist = (completedIn .bStart .start 50#6 0x38#8 0x00#8).hist ++ new
        ∧ Event.fail .budget ∈ new :=
  ⟨_, rfl, [.fail .budget, .rsp .beginCmd 0xFF#8 0xA5#8], rfl, by decide⟩

/-- BusControllerCompletes: each phase that completes. -/
theorem witness_BusControllerCompletes :
    ((waitingIn .bStart .start 1#6).waiting ∧ lastPhase (waitingIn .bStart .start 1#6).bcCtrl = some .start)
      ∧ ((waitingIn .wData .dataNoack 1#6).waiting
        ∧ lastPhase (waitingIn .wData .dataNoack 1#6).bcCtrl = some .dataNoack)
      ∧ ((waitingIn .rData .dataAck 1#6).waiting
        ∧ lastPhase (waitingIn .rData .dataAck 1#6).bcCtrl = some .dataAck)
      ∧ ({ waitingIn .idle .start 0#6 with bench := .holding } : State).intFlag = false := by decide

/-- RS1 with an answer still to come: the reset cuts the address phase and leaves the bus controller alone. `late` is when
it then completes the phase, `cmds` what the host goes on with. -/
def cutPhase (late : Option Nat) (cmds : List CmdWord) : State :=
  { waitingIn .bAddr .dataNoack 12#6 with
    resetIn := some ⟨0#8, false, 0#8, 0#8, none⟩
    lateAt := late
    answers := [⟨0x18#8, 0x7F#8⟩]
    hostCmds := cmds }

/-- After the reset the bus controller completes the abandoned phase while the CORE is idle, with no response
(`40_bus_phase_controller.md` R118). -/
theorem test_lateCompletion :
    (next? (advanceN false 2 (cutPhase (some 1) [0x60000#19]))).map
        (fun t => (t.seq, t.bcStatus, t.bcData, t.intFlag))
        = some (.idle, 0x18#8, 0x7F#8, true)
      ∧ (next? (advanceN false 2 (cutPhase (some 1) [0x60000#19]))).map (fun t => (t.hist, t.hostCmds))
        = some ([.cpl .dataNoack 0x18#8 0x7F#8], [0x60000#19]) := by decide

/-- The completion may also come after a command that requests no phase (an illegal word), or never: the host's END comes
first and after its STOP pattern there is no completion step (R119). -/
theorem test_lateCompletion_later :
    (next? (advanceN false 3 (cutPhase (some 1) [0x20100#19, 0x60000#19]))).map (fun t => (t.hist.getLast?, t.hostCmds))
        = some (some (.cpl .dataNoack 0x18#8 0x7F#8), [0x60000#19])
      ∧ (next? (advanceN false 2 (cutPhase (some 0) [0x60000#19]))).map (fun t => (t.answers, t.lateDue))
        = some ([⟨0x18#8, 0x7F#8⟩], false) := by decide

/-- A START that a reset abandoned and that completes late with START_TX: the ghost `held`, which the reset cleared, is set
(`10_state.md` R33); with arbitration lost it stays clear. -/
theorem test_lateStart_held :
    (next? (advanceN false 2 { cutPhase (some 0) [] with bcCtrl := 0x24#8, answers := [⟨0x08#8, 0#8⟩] })).map
        (fun t => (t.seq, t.held)) = some (.idle, true)
      ∧ (next? (advanceN false 2 { cutPhase (some 0) [] with bcCtrl := 0x24#8, answers := [⟨0x38#8, 0#8⟩] })).map
        (fun t => (t.seq, t.held)) = some (.idle, false) := by decide

/-- A bus controller that is reset with the CORE is disabled until the next pattern: whatever BC.CTRL comes up with, here
the bits of a START, no phase completes (`10_state.md` R37). -/
theorem test_resetBusController_disabled :
    (next? (advance false
        { cutPhase (some 0) [] with resetIn := some ⟨0#8, false, 0#8, 0#8, some ⟨0x24#8, 0xF8#8, 0#8⟩⟩ })).map
        (fun t => (t.bcCtrl, t.lateDue))
      = some (0x20#8, false) := by decide

/-- BusControllerCompletes, the late clauses. -/
theorem witness_BusControllerCompletes_late :
    let s : State := { cutPhase (some 1) [0x60000#19] with resetIn := none, seq := .idle }
    s.resetIn = none ∧ s.seq = .idle ∧ s.intFlag = false ∧ s.bench ≠ .holding ∧ s.lateAt = some 1
      ∧ s.hostCmds.length ≤ 1
      ∧ lastPhase s.bcCtrl = some .dataNoack ∧ s.answers = [⟨0x18#8, 0x7F#8⟩] ∧ s.lateDue = true
      ∧ (cutPhase none []).resetIn = some ⟨0#8, false, 0#8, 0#8, none⟩ ∧ (cutPhase none []).lateAt = none
      ∧ (cutPhase none []).intFlag = false ∧ lastPhase (cutPhase none []).bcCtrl = some .dataNoack := by decide

/-- EndOfRun, StepRunsDecodedCommand: ready states in which a phase is abandoned and no completion is due. -/
theorem witness_ready_abandoned :
    ({ cutPhase none [0x60000#19] with resetIn := none, seq := .idle } : State).ready
      ∧ ({ cutPhase none [] with resetIn := none, seq := .idle } : State).runOver
      ∧ ({ cutPhase none [] with resetIn := none, seq := .idle } : State).lateDue = false
      ∧ outstandingPhase (cutPhase none []).bcCtrl = some .dataNoack := by decide

theorem witness_NoCompletionAfterStop : lastPhase (State.reset.requestPhase .stop).bcCtrl = some .stop := by decide

theorem witness_HangIsStuckUntilReset :
    (waitingIn .bAddr .dataNoack 1#6).hung ∧ (waitingIn .bAddr .dataNoack 1#6).resetIn = none
      ∧ ({ waitingIn .bAddr .dataNoack 1#6 with resetIn := some ⟨0#8, false, 0#8, 0#8, none⟩ } : State).hung := by
  decide

theorem witness_EndOfRun :
    State.reset.resetIn = none ∧ State.reset.benchQuiet = true ∧ State.reset.lateDue = false ∧ State.reset.runOver
      ∧ ¬(idleWith 0x60000#19).runOver := by decide

theorem witness_StepRunsDecodedCommand :
    (idleWith 0x14002#19).ready ∧ (idleWith 0x14002#19).hostCmds = [0x14002#19]
      ∧ decodeCmd 0x14002#19 = .ok (.beginTransaction 0x40#8 0x02#8 .read) := ⟨by decide, rfl, rfl⟩

theorem witness_PlacedInstructionRunsNext :
    decodeTableWord 24 0x7FFFF = none ∧ decodeTableWord 24 0x60000 = some .endTransaction
      ∧ decodeTableWord 8 0 = some .phStart ∧ decodeTableWord 8 3 = some .phStop := by decide

theorem witness_ResetEvent :
    ({ waitingIn .wData .dataNoack 3#6 with resetIn := some ⟨1#8, true, 2#8, 3#8, none⟩ } : State).resetIn
        = some ⟨1#8, true, 2#8, 3#8, none⟩
      ∧ ({ waitingIn .wData .dataNoack 3#6 with
            resetIn := some ⟨1#8, true, 2#8, 3#8, some ⟨4#8, 5#8, 6#8⟩⟩ } : State).resetIn
        = some ⟨1#8, true, 2#8, 3#8, some ⟨4#8, 5#8, 6#8⟩⟩ := ⟨rfl, rfl⟩

/-- EveryStepKeepsInv: states of each kind that meet the invariant and step. -/
theorem witness_EveryStepKeepsInv :
    ((idleWith 0x04002#19).Inv ∧ ∃ t, step (idleWith 0x04002#19) = .next t)
      ∧ ((completedIn .bAddr .dataNoack 50#6 0x20#8 0x00#8).Inv
        ∧ ∃ t, step (completedIn .bAddr .dataNoack 50#6 0x20#8 0x00#8) = .next t)
      ∧ (completedIn .rData .dataAck 0#6 0x50#8 0x00#8).Inv := by
  exact ⟨⟨by decide, _, rfl⟩, ⟨by decide, _, rfl⟩, by decide⟩

theorem witness_WaitingStatesProgress :
    ({ waitingIn .bStart .start 1#6 with answers := [⟨0x08#8, 0x00#8⟩] } : State).Inv
      ∧ ({ waitingIn .bStart .start 1#6 with answers := [⟨0x08#8, 0x00#8⟩] } : State).answers ≠ []
      ∧ (waitingIn .bStart .start 1#6).seq ≠ .idle := by decide

/-- SequencerTransitions, ResultWrittenWithResponse, AccessRights, HeldAndResultSteerNothing: a step from each state. -/
theorem witness_steps :
    (∃ t, advance false (idleWith 0x50000#19) = .next t)
      ∧ (∃ t, advance true (completedIn .bStart .start 1#6 0x08#8 0x00#8) = .next t)
      ∧ (∃ t, advance true (completedIn .bAddr .dataNoack 1#6 0x18#8 0x00#8) = .next t)
      ∧ (∃ t, advance false (completedIn .wData .dataNoack 1#6 0x28#8 0x00#8) = .next t)
      ∧ (∃ t, advance false (completedIn .rData .dataAck 1#6 0x50#8 0x00#8) = .next t) :=
  ⟨⟨_, rfl⟩, ⟨_, rfl⟩, ⟨_, rfl⟩, ⟨_, rfl⟩, ⟨_, rfl⟩⟩

/-- SequencerTransitions, last clause: a waiting state that steps. -/
theorem witness_SequencerTransitions_waiting :
    (waitingIn .bStart .start 1#6).seq ≠ .idle ∧ (waitingIn .bStart .start 1#6).intFlag = false
      ∧ (waitingIn .bStart .start 1#6).resetIn = none
      ∧ ∃ t, advance false { waitingIn .bStart .start 1#6 with answers := [⟨0x08#8, 0x00#8⟩] } = .next t :=
  ⟨by decide, by decide, rfl, ⟨_, rfl⟩⟩

theorem witness_OnlyEndRequestsStop :
    (∃ t, advance false (idleWith 0x60000#19) = .next t
        ∧ ∃ new, t.hist = (idleWith 0x60000#19).hist ++ new ∧ Event.req .stop 0xFF#8 ∈ new)
      ∧ ∃ t, advance false { State.reset with bench := .presented 0b11#2 } = .next t
        ∧ ∃ new, t.hist = [] ++ new ∧ Event.req .stop 0xFF#8 ∈ new :=
  ⟨⟨_, rfl, [.acc .endTransaction, .req .stop 0xFF#8, .rsp .endCmd 0x00#8 0xA5#8], rfl, by decide⟩,
    ⟨_, rfl, [.req .stop 0xFF#8], rfl, by decide⟩⟩

/-- B1 as a whole: a BEGIN that ends, and its two kinds of step. -/
def b1 : State := { State.reset with answers := [⟨0x08#8, 0x00#8⟩, ⟨0x18#8, 0x00#8⟩] }

theorem witness_BeginRequestsNoStop :
    (∃ t, exec (.beginTransaction 0x40#8 0x02#8 .write) State.reset = .next t)
      ∧ (waitingIn .bStart .start 1#6).inBegin = true ∧ (waitingIn .bAddr .dataNoack 1#6).inBegin = true
      ∧ ∃ t, whole false (.beginTransaction 0x40#8 0x02#8 .write) b1 = some t :=
  ⟨⟨_, rfl⟩, by decide, by decide, Option.isSome_iff_exists.mp (by decide)⟩

/-- W2 as a whole. -/
theorem witness_TransfersLeaveRetryAlone :
    (∃ t, whole false (.writeByte 0x09#8) { State.reset with answers := [⟨0x30#8, 0x00#8⟩] } = some t)
      ∧ cond (0x30#8 &&& 0xF8#8) = .dataTxNack
      ∧ (∃ t, advance false (completedIn .wData .dataNoack 7#6 0x30#8 0x00#8) = .next t)
      ∧ ∃ t, whole false .endTransaction State.reset = some t :=
  ⟨⟨_, rfl⟩, by decide, ⟨_, rfl⟩, ⟨_, rfl⟩⟩

theorem witness_RdataWrittenOnlyByRead :
    ∃ t, advance false (completedIn .rData .dataNoack 7#6 0x58#8 0x1B#8) = .next t
      ∧ t.rdata ≠ (completedIn .rData .dataNoack 7#6 0x58#8 0x1B#8).rdata := ⟨_, rfl, by decide⟩

theorem witness_FailureIsPrecise :
    ∃ t, advance false (completedIn .wData .dataNoack 7#6 0x30#8 0x00#8) = .next t
      ∧ ∃ new, t.hist = (completedIn .wData .dataNoack 7#6 0x30#8 0x00#8).hist ++ new
        ∧ Event.fail .dataWrite ∈ new :=
  ⟨_, rfl, [.fail .dataWrite, .rsp .writeCmd 0xFF#8 0xA5#8], rfl, by decide⟩

/-- FailureIsPrecise, the illegal word (IL1): the other commands stay. -/
theorem witness_FailureIsPrecise_illegal :
    ∃ t, advance false { idleWith 0x20100#19 with hostCmds := [0x20100#19, 0x60000#19] } = .next t
      ∧ t.hostCmds = [0x60000#19] ∧ ∃ new, t.hist = [] ++ new ∧ Event.fail .illegal ∈ new :=
  ⟨_, rfl, rfl, [.accIllegal 0x20100#19, .fail .illegal, .rsp .illegalCmd 0xFF#8 0xA5#8], rfl, by decide⟩

/-- AccessOrderOfCommands, AnswersConsumed: WRITE and READ that end, and one that hangs (W7). -/
theorem witness_whole_transfers :
    (whole true (.writeByte 0x00#8) { State.reset with answers := [⟨0x2F#8, 0x00#8⟩] }).isSome = true
      ∧ (whole true (.readByte true) { State.reset with answers := [⟨0x50#8, 0x7F#8⟩] }).isSome = true
      ∧ (whole true (.readByte false) { State.reset with answers := [⟨0x50#8, 0x7F#8⟩] }).isSome = true
      ∧ (whole true (.writeByte 0x09#8) State.reset).isNone = true := by decide

theorem witness_HostCannotDisturbCommand :
    (waitingIn .wData .dataNoack 0#6).seq ≠ .idle
      ∧ advance false (waitingIn .wData .dataNoack 0#6) = .fault .phaseNotCompleted
      ∧ ∃ t, advance false (completedIn .wData .dataNoack 0#6 0x28#8 0x00#8) = .next t :=
  ⟨by decide, rfl, ⟨_, rfl⟩⟩

theorem witness_HeldAndResultSteerNothing : advance false State.reset = .fault .noCommand := rfl

/-- StepsAgreeWithCommands: a command that ends, one that hangs, and an illegal word. -/
theorem witness_StepsAgreeWithCommands :
    ({ b1 with hostCmds := [0x04002#19] } : State).ready ∧ (idleWith 0x20100#19).ready
      ∧ (commandLevel false State.reset 0x04002#19 b1.answers).map Prod.snd = some (0x00#8, [])
      ∧ (commandLevel false State.reset 0x04002#19 []).isNone = true
      ∧ (commandLevel false State.reset 0x20100#19 b1.answers).map Prod.snd = some (0xFF#8, b1.answers) := by decide

/-- BeginSucceedsOnNthAttempt: N = 1 (B1), and N = 50 by 49 lost arbitrations (B13) or 49 address NACKs (B12). -/
theorem witness_BeginSucceedsOnNthAttempt :
    ackedAttempt false .write [⟨0x08#8, 0x00#8⟩, ⟨0x18#8, 0x00#8⟩]
      ∧ ackedAttempt true .read [⟨0x10#8, 0x00#8⟩, ⟨0x40#8, 0x00#8⟩]
      ∧ (List.replicate 49 ([⟨0x38#8, 0x00#8⟩] : List Answer)).length < 50
      ∧ (∀ a ∈ List.replicate 49 ([⟨0x38#8, 0x00#8⟩] : List Answer), transientAttempt false .write a)
      ∧ ∀ a ∈ List.replicate 49 ([⟨0x08#8, 0x00#8⟩, ⟨0x20#8, 0x00#8⟩] : List Answer),
          transientAttempt true .write a := by
  refine ⟨⟨_, _, rfl, by decide, by decide⟩, ⟨_, _, rfl, by decide, by decide⟩, by simp, ?_, ?_⟩
  · intro a h
    rw [(List.mem_replicate.mp h).2]
    exact .inl ⟨_, rfl, by decide⟩
  · intro a h
    rw [(List.mem_replicate.mp h).2]
    exact .inr ⟨_, _, rfl, by decide, by decide⟩

/-- BeginSucceedsOnNthAttempt, all hypotheses at once: B6, with one failed attempt. -/
theorem witness_BeginSucceedsOnNthAttempt_B6 :
    let s : State :=
      { State.reset with
        hostCmds := [0x04002#19]
        answers := [⟨0x08#8, 0x00#8⟩, ⟨0x20#8, 0x00#8⟩, ⟨0x10#8, 0x00#8⟩, ⟨0x18#8, 0x00#8⟩] }
    s.ready ∧ s.hostCmds = [beginWord 0x40#8 0x02#8 .write]
      ∧ transientAttempt false .write [⟨0x08#8, 0x00#8⟩, ⟨0x20#8, 0x00#8⟩]
      ∧ ackedAttempt false .write [⟨0x10#8, 0x00#8⟩, ⟨0x18#8, 0x00#8⟩]
      ∧ s.answers
        = [[⟨0x08#8, 0x00#8⟩, ⟨0x20#8, 0x00#8⟩]].flatten ++ [⟨0x10#8, 0x00#8⟩, ⟨0x18#8, 0x00#8⟩] ++ [] := by
  refine ⟨by decide, by decide, .inr ⟨_, _, rfl, by decide, by decide⟩, ⟨_, _, rfl, by decide, by decide⟩, rfl⟩

/-- BeginFailsAfterFiftyAttempts: B4 and B11, on the state that lists those answers. -/
theorem witness_BeginFailsAfterFiftyAttempts :
    ({ State.reset with
        hostCmds := [beginWord 0x40#8 0x02#8 .write]
        answers := (List.replicate 50 ([⟨0x38#8, 0x00#8⟩] : List Answer)).flatten ++ [] } : State).ready
      ∧ (List.replicate 50 ([⟨0x38#8, 0x00#8⟩] : List Answer)).length = 50
      ∧ (∀ a ∈ List.replicate 50 ([⟨0x38#8, 0x00#8⟩] : List Answer), transientAttempt false .write a)
      ∧ ∀ a ∈ List.replicate 50 ([⟨0x08#8, 0x00#8⟩, ⟨0x20#8, 0x00#8⟩] : List Answer),
          transientAttempt false .write a := by
  refine ⟨⟨rfl, rfl, rfl, rfl⟩, by simp, ?_, ?_⟩
  · intro a h
    rw [(List.mem_replicate.mp h).2]
    exact .inl ⟨_, rfl, by decide⟩
  · intro a h
    rw [(List.mem_replicate.mp h).2]
    exact .inr ⟨_, _, rfl, by decide, by decide⟩

theorem witness_BeginTerminatesAndCounts :
    ({ State.reset with answers := List.replicate 100 ⟨0x08#8, 0x00#8⟩ } : State).bcCompletes 100
      ∧ ∃ t, whole false (.beginTransaction 0x40#8 0x02#8 .write) b1 = some t :=
  ⟨by simp [State.bcCompletes], Option.isSome_iff_exists.mp (by decide)⟩

/-- DriverResult: P1's responses, and P4's, where the third command failed. -/
theorem witness_DriverResult :
    (Driver.expWrite 0x09#8 0x8F#8).ok
        [⟨.beginCmd, 0x00#8, 0#8⟩, ⟨.writeCmd, 0x00#8, 0#8⟩, ⟨.writeCmd, 0x00#8, 0#8⟩, ⟨.endCmd, 0x00#8, 0#8⟩] = true
      ∧ (Driver.expWrite 0x09#8 0x81#8).ok
        [⟨.beginCmd, 0x00#8, 0#8⟩, ⟨.writeCmd, 0x00#8, 0#8⟩, ⟨.writeCmd, 0xFF#8, 0#8⟩, ⟨.endCmd, 0x00#8, 0#8⟩]
        = false := by decide

/-- DriverResult: EXP_READ of P2 and TS_READ of P3 when every command succeeds. -/
theorem witness_DriverResult_value :
    (Driver.expRead 0x09#8).value
        [⟨.beginCmd, 0x00#8, 0#8⟩, ⟨.writeCmd, 0x00#8, 0#8⟩, ⟨.endCmd, 0x00#8, 0#8⟩, ⟨.beginCmd, 0x00#8, 0#8⟩,
          ⟨.readCmd, 0x00#8, 0x8F#8⟩, ⟨.endCmd, 0x00#8, 0x8F#8⟩] = some 0x8F#8
      ∧ Driver.tsRead.value
        [⟨.beginCmd, 0x00#8, 0#8⟩, ⟨.writeCmd, 0x00#8, 0#8⟩, ⟨.beginCmd, 0x00#8, 0#8⟩,
          ⟨.readCmd, 0x00#8, 0x1B#8⟩, ⟨.endCmd, 0x00#8, 0x1B#8⟩] = some 0x1B#8 := by decide

/-- The duty of R240 on programs with a reset: one inside an episode breaks it, an END after it or not, one outside does
not (`70_reset_and_hazards.md` R240). -/
theorem test_pairsStartStop :
    pairsStartStop false [.command (.beginTransaction 0x40#8 0x02#8 .write), .reset, .command .endTransaction] = false
      ∧ pairsStartStop false [.command (.beginTransaction 0x40#8 0x02#8 .write), .reset] = false
      ∧ pairsStartStop false
          [.reset, .command (.beginTransaction 0x90#8 0x00#8 .write), .command (.beginTransaction 0x90#8 0x00#8 .read),
            .command .endTransaction, .reset] = true
      ∧ pairsStartStop false [.command (.beginTransaction 0x40#8 0x02#8 .write)] = false := by decide

/-- RS1 with its BEGIN in the history and a reset pending; the last argument is what the host still issues. -/
def rs1 (reset : Option ResetLeaves) (cmds : List CmdWord) : State :=
  { waitingIn .bAddr .dataNoack 12#6 with
    hist := [.acc (.beginTransaction 0x40#8 0x02#8 .write)]
    resetIn := reset
    hostCmds := cmds }

/-- DriversCloseEpisodes, last clause: RS1's reset cuts an episode; with no END to follow the duty stays unmet. -/
theorem witness_DriversCloseEpisodes_cut :
    (rs1 (some ⟨0#8, false, 0#8, 0#8, none⟩) []).owesEnd = true
      ∧ (rs1 (some ⟨0#8, false, 0#8, 0#8, none⟩) [0x60000#19]).meetsDuty = false
      ∧ ∃ t, advance false (rs1 (some ⟨0#8, false, 0#8, 0#8, none⟩) []) = .next t
        ∧ t.held = false ∧ t.runOver ∧ ¬t.leavesBusReleased :=
  ⟨by decide, by decide, _, rfl, by decide, by decide, by decide⟩

/-- DriversCloseEpisodes, the other clauses: a step that keeps the duty and the tie to the ghost bit, and the end of a run
that met it. -/
theorem witness_DriversCloseEpisodes :
    let s : State := { idleWith 0x60000#19 with hist := [.acc (.beginTransaction 0x40#8 0x02#8 .write)] }
    s.meetsDuty = true ∧ s.heldIsOwed ∧ (∃ t, advance false s = .next t)
      ∧ (rs1 none [0x60000#19]).meetsDuty = true ∧ (rs1 none []).meetsDuty = false
      ∧ State.reset.runOver ∧ State.reset.meetsDuty = true ∧ State.reset.heldIsOwed :=
  ⟨by decide, by decide, ⟨_, rfl⟩, by decide, by decide, by decide, by decide, by decide⟩

/-- R245: P6's two-byte read acknowledges the first byte only; a last byte acknowledged is not the host's choice. -/
theorem test_acksAllButLastRead :
    acksAllButLastRead [.beginTransaction 0x90#8 0x00#8 .read, .readByte true, .readByte false, .endTransaction] = true
      ∧ acksAllButLastRead [.readByte true, .endTransaction] = false
      ∧ acksAllButLastRead [.readByte false, .readByte false] = false
      ∧ acksAllButLastRead Driver.tsRead.commands = true := by decide

/-- A READ's byte after a BEGIN that failed has no value, though the READ's own result is success; after one that
succeeded it has; after P5's failed READ it has none (`70_reset_and_hazards.md` R242). -/
theorem test_usableData :
    usableData [⟨.beginCmd, 0xFF#8, 0x1B#8⟩] ⟨.readCmd, 0x00#8, 0x55#8⟩ = none
      ∧ usableData [⟨.beginCmd, 0x00#8, 0#8⟩, ⟨.writeCmd, 0xFF#8, 0#8⟩] ⟨.readCmd, 0x00#8, 0x55#8⟩ = none
      ∧ usableData [⟨.beginCmd, 0x00#8, 0#8⟩, ⟨.writeCmd, 0x00#8, 0#8⟩] ⟨.readCmd, 0x00#8, 0x55#8⟩ = some 0x55#8
      ∧ usableData [⟨.beginCmd, 0x00#8, 0#8⟩] ⟨.readCmd, 0xFF#8, 0x1B#8⟩ = none := by decide

/-- BeginFailsOnTerminalStatus, all hypotheses at once: B18, terminal at the address step of attempt 5. -/
theorem witness_BeginFailsOnTerminalStatus_B18 :
    let s : State :=
      { State.reset with
        hostCmds := [0x04002#19]
        answers := [⟨0x38#8, 0#8⟩, ⟨0x08#8, 0#8⟩, ⟨0x20#8, 0#8⟩, ⟨0x38#8, 0#8⟩, ⟨0x10#8, 0#8⟩, ⟨0x38#8, 0#8⟩,
          ⟨0x08#8, 0#8⟩, ⟨0x30#8, 0#8⟩] }
    let failed : List (List Answer) :=
      [[⟨0x38#8, 0#8⟩], [⟨0x08#8, 0#8⟩, ⟨0x20#8, 0#8⟩], [⟨0x38#8, 0#8⟩], [⟨0x10#8, 0#8⟩, ⟨0x38#8, 0#8⟩]]
    s.ready ∧ s.hostCmds = [beginWord 0x40#8 0x02#8 .write] ∧ failed.length < 50
      ∧ (∀ a ∈ failed, transientAttempt false .write a)
      ∧ terminalAttempt false .write .addrSeq [⟨0x08#8, 0#8⟩, ⟨0x30#8, 0#8⟩]
      ∧ s.answers = failed.flatten ++ [⟨0x08#8, 0#8⟩, ⟨0x30#8, 0#8⟩] ++ [] := by
  refine ⟨by decide, by decide, by decide, ?_, .inr ⟨_, _, rfl, rfl, by decide, by decide, by decide, by decide⟩, rfl⟩
  intro a h
  simp only [List.mem_cons, List.not_mem_nil, or_false] at h
  rcases h with rfl | rfl | rfl | rfl
  · exact .inl ⟨_, rfl, by decide⟩
  · exact .inr ⟨_, _, rfl, by decide, by decide⟩
  · exact .inl ⟨_, rfl, by decide⟩
  · exact .inr ⟨_, _, rfl, by decide, by decide⟩

/-- BeginFailsOnTerminalStatus: terminal at the START step (B8), at the last permitted attempt, and B15s. -/
theorem witness_BeginFailsOnTerminalStatus_others :
    terminalAttempt true .read .startSeq [⟨0x00#8, 0#8⟩]
      ∧ (List.replicate 49 ([⟨0x38#8, 0#8⟩] : List Answer)).length < 50
      ∧ terminalAttempt true .read .addrSeq [⟨0x08#8, 0#8⟩, ⟨0x18#8, 0#8⟩] :=
  ⟨.inl ⟨_, rfl, rfl, by decide, by decide, by decide⟩, by simp,
    .inr ⟨_, _, rfl, rfl, by decide, by decide, by decide, by decide⟩⟩

end Sys2Proof.Tests
end

section
/-! Proofs of the family `10_state.md`: steps of the bus controller, of a direct call and of a reset, forward. -/

namespace Sys2Proof.Machine

/-- The bus controller's step in full, where a phase is outstanding and an answer is to come
(`40_bus_phase_controller.md` R118). -/
theorem State.busComplete_eq {s : State} {p : Phase} {x : Answer} {rest : List Answer}
    (hf : s.intFlag = false) (hl : lastPhase s.bcCtrl = some p) (hp : p ≠ .stop) (ha : s.answers = x :: rest) :
    s.busComplete = some
      { s with
        bcStatus := x.s
        bcData := x.d
        bcCtrl := ctrlCompleted s.bcCtrl
        answers := rest
        hist := s.hist ++ [.cpl p x.s x.d] } :=
  State.busComplete_eq_some.2 ⟨p, x, rest, (outstandingPhase_eq_some _ _).2 ⟨hf, hl, hp⟩, ha, rfl⟩

/-- A phase that a direct call holds for is not abandoned, so no late completion is due (log 16). -/
theorem State.lateDue_of_holding {s : State} (hb : s.bench = .holding) : s.lateDue = false := by
  unfold State.lateDue
  cases s.lateAt <;> simp [hb]

/-- A presented direct call is driven by the next step (log 14). -/
theorem advance_benchCall {strict : Bool} {s : State} {c : PhaseCode} (hs : s.seq = .idle) (hr : s.resetIn = none)
    (hl : s.lateDue = false) (hb : s.bench = .presented c) :
    advance strict s = .next ({ s with bench := .idle }.accepted (decodePhase c)) := by
  have he := exec_idle (decodePhase c) (s := { s with bench := .idle }) hs
  unfold advance idleStep
  rw [hr, hs, State.lateComplete_eq_none hl, hb]
  simpa [hr, hs] using he

/-- A direct call in its hold waits for the bus controller (`40_bus_phase_controller.md` R115). -/
theorem advance_holding {strict : Bool} {s : State} (hs : s.seq = .idle) (hr : s.resetIn = none)
    (hb : s.bench = .holding) : advance strict s = waitStep s s.returnPhase.2 := by
  simp [advance, hr, hs, idleStep, State.lateComplete_eq_none (State.lateDue_of_holding hb), hb, waitStep]

/-- A pending reset takes the next step from any state (`70_reset_and_hazards.md` R230). -/
theorem advance_reset {strict : Bool} {s : State} {u : ResetLeaves} (hr : s.resetIn = some u) :
    advance strict s = .next (s.takeReset u) := by
  simp [advance, hr]

end Sys2Proof.Machine
end

section
/-! Proofs of the family `10_state.md`: the invariant (O37, O38). -/

namespace Sys2Proof.Machine

/-- What the invariant asks of an idle state with no direct call in its hold (`10_state.md` R22). -/
theorem State.Inv.of_idle {s : State} (hs : s.seq = .idle) (hr : s.retry.toNat ≤ 50) (hb : s.bench ≠ .holding) :
    s.Inv := by
  simp [State.Inv, State.inBegin, hs, hr, hb]

/-- What the invariant asks of a state that waits for a START (`41_begin_and_retry.md` R132). -/
theorem State.Inv.of_bStart {s : State} (hs : s.seq = .bStart) (hr : 1 ≤ s.retry.toNat ∧ s.retry.toNat ≤ 50)
    (hl : lastPhase s.bcCtrl = some .start) (hb : s.bench ≠ .holding) : s.Inv := by
  simp [State.Inv, State.inBegin, hs, hr, hl, hb]

/-- What the invariant asks of the address step (`41_begin_and_retry.md` R133, R134). -/
theorem State.Inv.of_bAddr {s : State} (hs : s.seq = .bAddr) (hr : 1 ≤ s.retry.toNat ∧ s.retry.toNat ≤ 50)
    (hl : lastPhase s.bcCtrl = some .dataNoack) (hh : s.held = true) (hb : s.bench ≠ .holding) : s.Inv := by
  simp [State.Inv, State.inBegin, hs, hr, hl, hh, hb]

/-- What the invariant asks of a WRITE in progress (`42_byte_transfer_and_end.md` R150). -/
theorem State.Inv.of_wData {s : State} (hs : s.seq = .wData) (hr : s.retry.toNat ≤ 50)
    (hl : lastPhase s.bcCtrl = some .dataNoack) (hb : s.bench ≠ .holding) : s.Inv := by
  simp [State.Inv, State.inBegin, hs, hr, hl, hb]

/-- What the invariant asks of a READ in progress (`42_byte_transfer_and_end.md` R152). -/
theorem State.Inv.of_rData {s : State} (hs : s.seq = .rData) (hr : s.retry.toNat ≤ 50)
    (hl : lastPhase s.bcCtrl = some (readPhase s.ackreq)) (hb : s.bench ≠ .holding) : s.Inv := by
  simp [State.Inv, State.inBegin, hs, hr, hl, hb]

/-- What the invariant asks of a direct call in its hold (`40_bus_phase_controller.md` R121). -/
theorem State.Inv.of_holding {s : State} {p : Phase} (hs : s.seq = .idle) (hr : s.retry.toNat ≤ 50)
    (hl : lastPhase s.bcCtrl = some p) (hp : p ≠ .stop) : s.Inv := by
  cases p <;> simp [State.Inv, State.inBegin, hs, hr, hl] at hp ⊢

/-- The invariant reads six fields, and of BC.CTRL the phase last requested only. -/
theorem State.Inv.congr {s t : State} (h : s.Inv) (hs : t.seq = s.seq) (hr : t.retry = s.retry)
    (ha : t.ackreq = s.ackreq) (hh : t.held = s.held) (hb : t.bench = s.bench)
    (hl : lastPhase t.bcCtrl = lastPhase s.bcCtrl) : t.Inv := by
  simpa only [State.Inv, State.inBegin, hs, hr, ha, hh, hb, hl] using h

/-- The counter's bound (`10_state.md` R22). -/
theorem State.Inv.retry_le {s : State} (h : s.Inv) : s.retry.toNat ≤ 50 := h.1

/-- In the two states of BEGIN an attempt has been counted (`41_begin_and_retry.md` R132). -/
theorem State.Inv.one_le_retry {s : State} (h : s.Inv) (hs : s.seq = .bStart ∨ s.seq = .bAddr) :
    1 ≤ s.retry.toNat := by
  obtain ⟨-, hc, -⟩ := h
  exact hc (by simpa [State.inBegin] using hs)

/-- While a command is in progress no direct call is in its hold (`40_bus_phase_controller.md` R121). -/
theorem State.Inv.not_holding {s : State} (h : s.Inv) (hs : s.seq ≠ .idle) : s.bench ≠ .holding := by
  obtain ⟨-, -, -, -, -, -, hb⟩ := h
  exact fun hh => hs (hb hh).1

/-- An accepted host command meets the invariant: it waits for the phase it has just requested, or is an END. -/
theorem State.Inv.accepted {s : State} (h : s.Inv) (hb : s.bench ≠ .holding) {i : Instr}
    (hi : i.isHostCommand = true) : (s.accepted i).Inv := by
  obtain ⟨id, sub, dir, rfl⟩ | ⟨v, rfl⟩ | ⟨a, rfl⟩ | rfl := hostCommand_cases hi
  · rw [State.accepted, State.acceptBegin_eq]
    exact .of_bStart rfl ⟨by simp, by simp⟩ (lastPhase_ctrlAfterWrite_pat _ _) hb
  · rw [State.accepted, State.acceptWrite_eq]
    exact .of_wData rfl h.retry_le (lastPhase_ctrlAfterWrite_pat _ _) hb
  · rw [State.accepted, State.acceptRead_eq]
    exact .of_rData rfl h.retry_le (lastPhase_ctrlAfterWrite_pat _ _) hb
  · rw [State.accepted, State.acceptEnd_eq]
    exact .of_idle rfl h.retry_le hb

/-- Every step keeps the invariant: the completion step keeps the phase last requested, every request names its phase,
and the attempt gate counts to 50 at most. -/
theorem State.Inv.advance {strict : Bool} {s t : State} (h : s.Inv) (ha : advance strict s = .next t) : t.Inv := by
  cases advance_effect ha with
  | reset u => exact .of_idle rfl (Nat.zero_le 50) nofun
  | bus => exact h.congr rfl rfl rfl rfl rfl (lastPhase_ctrlCompleted _)
  | late p x rest hr hs hd hh => exact .of_idle hs h.retry_le hh
  | retry hr hf hs hlt =>
    have hn : (s.retry + 1#6).toNat = s.retry.toNat + 1 := retry_succ_toNat hlt
    have hb : s.bench ≠ .holding := h.not_holding (by rcases hs with ⟨hs, -⟩ | ⟨hs, -⟩ <;> simp [hs])
    exact .of_bStart rfl ⟨by simp only [hn]; omega, by simp only [hn]; omega⟩ (lastPhase_ctrlAfterWrite_pat _ _) hb
  | fail k c hr hf hk =>
    have hs : s.seq ≠ .idle := by rcases hk with ⟨hs, -⟩ | ⟨hs, -⟩ | ⟨hs, -⟩ | ⟨hs, -⟩ <;> simp [hs]
    exact .of_idle rfl h.retry_le (h.not_holding hs)
  | issue hr hf hs =>
    exact .of_bAddr rfl ⟨h.one_le_retry (.inl hs), h.retry_le⟩ (lastPhase_ctrlAfterWrite_pat _ _) rfl
      (h.not_holding (by simp [hs]))
  | ok k hr hf hk =>
    have hs : s.seq ≠ .idle := by rcases hk with ⟨hs, -⟩ | ⟨hs, -⟩ <;> simp [hs]
    exact .of_idle rfl h.retry_le (h.not_holding hs)
  | readOk hr hf hs => exact .of_idle rfl h.retry_le (h.not_holding (by simp [hs]))
  | benchReturn b hr hs => exact .of_idle hs h.retry_le nofun
  | benchWait p c hr hs hb hp => exact .of_holding hs h.retry_le (lastPhase_ctrlAfterWrite_pat _ _) hp
  | benchStop hr hs => exact .of_idle hs h.retry_le nofun
  | accept w rest i t hr hs hp hh hc hd hi ht =>
    subst ht
    exact State.Inv.accepted (s := { s with hostCmds := rest }) (h.congr rfl rfl rfl rfl rfl rfl) hh hi
  | illegal w rest e hr hs hp hh => exact .of_idle rfl h.retry_le hh

/-- Settles O37: `step` is `advance` at the default setting of `ADDR_ACK_STRICT`. -/
theorem everyStepKeepsInv : Obligations.EveryStepKeepsInv := by
  unfold Obligations.EveryStepKeepsInv
  exact ⟨fun _ _ h hs => h.advance hs, fun _ _ _ h ha => h.advance ha⟩

/-- Settles O38. -/
theorem resetMeetsInv : Obligations.ResetMeetsInv := by
  unfold Obligations.ResetMeetsInv
  exact .of_idle rfl (Nat.zero_le 50) nofun

end Sys2Proof.Machine
end

section
/-! Proofs of the family `10_state.md`: what writes RDATA and RESULT (O44, O45). -/

namespace Sys2Proof.Machine

/-- No accept changes RDATA (`10_state.md` R26). -/
theorem State.accepted_rdata (s : State) {i : Instr} (h : i.isHostCommand = true) :
    (s.accepted i).rdata = s.rdata := by
  obtain ⟨id, sub, dir, rfl⟩ | ⟨v, rfl⟩ | ⟨a, rfl⟩ | rfl := hostCommand_cases h
  · rw [State.accepted, State.acceptBegin_eq]
  · rw [State.accepted, State.acceptWrite_eq]
  · rw [State.accepted, State.acceptRead_eq]
  · rw [State.accepted, State.acceptEnd_eq]

/-- Settles O44: of the steps that are no reset, only the completion of a successful READ writes RDATA. -/
theorem rdataWrittenOnlyByRead : Obligations.RdataWrittenOnlyByRead := by
  unfold Obligations.RdataWrittenOnlyByRead
  intro strict s t hr ha hne
  cases advance_effect ha with
  | reset u hu => simp [hr] at hu
  | readOk _ hf hs hc => exact ⟨hs, hf, hc, rfl, rfl, rfl⟩
  | accept w rest i t _ _ _ _ _ _ hi ht =>
    exact absurd (ht ▸ State.accepted_rdata { s with hostCmds := rest } hi) hne
  | bus | late | retry | fail | issue | ok | benchReturn | benchWait | benchStop | illegal => exact absurd rfl hne

/-- The step from `s` to `t` delivers no response and leaves RESULT alone, or delivers one that carries RESULT and RDATA
as they stand in `t` (`10_state.md` R25, `30_encoding.md` R97). -/
def State.RespondsTo (s t : State) : Prop :=
  ∃ new, t.hist = s.hist ++ new ∧
    (responses new = [] ∧ t.result = s.result
    ∨ ∃ k, responses new = [{ kind := k, result := t.result, rdata := t.rdata }]
        ∧ (t.result = 0x00#8 ∨ t.result = 0xFF#8) ∧ t.seq = .idle)

theorem State.RespondsTo.silent {s t : State} {new : List Event} (hh : t.hist = s.hist ++ new)
    (hn : responses new = []) (hr : t.result = s.result) : s.RespondsTo t := ⟨new, hh, .inl ⟨hn, hr⟩⟩

theorem State.RespondsTo.answered {s t : State} {new : List Event} (k : CmdKind) (hh : t.hist = s.hist ++ new)
    (hn : responses new = [⟨k, t.result, t.rdata⟩]) (hr : t.result = 0x00#8 ∨ t.result = 0xFF#8)
    (hs : t.seq = .idle) : s.RespondsTo t := ⟨new, hh, .inr ⟨k, hn, hr, hs⟩⟩

/-- Of the host commands END alone is answered as it is accepted (`42_byte_transfer_and_end.md` R155). -/
theorem State.respondsTo_accepted (s : State) {i : Instr} (h : i.isHostCommand = true) :
    s.RespondsTo (s.accepted i) := by
  obtain ⟨id, sub, dir, rfl⟩ | ⟨v, rfl⟩ | ⟨a, rfl⟩ | rfl := hostCommand_cases h
  · rw [State.accepted, State.acceptBegin_eq]; exact .silent rfl rfl rfl
  · rw [State.accepted, State.acceptWrite_eq]; exact .silent rfl rfl rfl
  · rw [State.accepted, State.acceptRead_eq]; exact .silent rfl rfl rfl
  · rw [State.accepted, State.acceptEnd_eq]; exact .answered .endCmd rfl rfl (.inl rfl) rfl

/-- Settles O45, by the effect of each step. -/
theorem resultWrittenWithResponse : Obligations.ResultWrittenWithResponse := by
  unfold Obligations.ResultWrittenWithResponse
  intro strict s t hr ha
  change s.RespondsTo t
  cases advance_effect ha with
  | reset u hu => simp [hr] at hu
  | bus | late | retry | issue | benchWait | benchStop => exact .silent rfl rfl rfl
  | benchReturn => exact .silent (List.append_nil _).symm rfl rfl
  | fail k => exact .answered k rfl rfl (.inr rfl) rfl
  | ok k => exact .answered k rfl rfl (.inl rfl) rfl
  | readOk => exact .answered .readCmd rfl rfl (.inl rfl) rfl
  | accept w rest i t _ _ _ _ _ _ hi ht =>
    subst ht
    exact State.respondsTo_accepted { s with hostCmds := rest } hi
  | illegal => exact .answered .illegalCmd rfl rfl (.inr rfl) rfl

end Sys2Proof.Machine
end

section
/-! Proofs of the family `10_state.md`: the ghost `held` and RESULT steer nothing (O50). -/

namespace Sys2Proof.Machine

/-- `s` with other values of the ghost bit and RESULT. -/
def State.withHeldResult (s : State) (b : Bool) (v : Byte) : State := { s with held := b, result := v }

/-- `t` differs from `s` in the ghost bit and RESULT at most. -/
def State.SameButHeldResult (s t : State) : Prop := ∃ b v, t = s.withHeldResult b v

/-- The two outcomes are next states that differ in `held` and RESULT at most, or the same stop. -/
inductive AgreeButHeldResult : (o o' : Host.Outcome State Fault Refusal) → Prop
  | next {t t' : State} (h : t.SameButHeldResult t') : AgreeButHeldResult (.next t) (.next t')
  | fault (r : Fault) : AgreeButHeldResult (.fault r) (.fault r)

theorem AgreeButHeldResult.of_next {t : State} {o : Host.Outcome State Fault Refusal}
    (h : AgreeButHeldResult (.next t) o) : ∃ b v, o = .next { t with held := b, result := v } := by
  cases h with
  | next ht =>
    obtain ⟨b, v, rfl⟩ := ht
    exact ⟨b, v, rfl⟩

theorem AgreeButHeldResult.of_fault {r : Fault} {o : Host.Outcome State Fault Refusal}
    (h : AgreeButHeldResult (.fault r) o) : o = .fault r := by
  cases h
  rfl

section
variable (s : State) (b : Bool) (v : Byte)

@[simp] theorem State.withHeldResult_seq : (s.withHeldResult b v).seq = s.seq := rfl
@[simp] theorem State.withHeldResult_ab : (s.withHeldResult b v).ab = s.ab := rfl
@[simp] theorem State.withHeldResult_ackreq : (s.withHeldResult b v).ackreq = s.ackreq := rfl
@[simp] theorem State.withHeldResult_hostCmds : (s.withHeldResult b v).hostCmds = s.hostCmds := rfl
@[simp] theorem State.withHeldResult_resetIn : (s.withHeldResult b v).resetIn = s.resetIn := rfl
@[simp] theorem State.withHeldResult_lateAt : (s.withHeldResult b v).lateAt = s.lateAt := rfl
@[simp] theorem State.withHeldResult_bench : (s.withHeldResult b v).bench = s.bench := rfl
@[simp] theorem State.withHeldResult_status : (s.withHeldResult b v).status = s.status := rfl
@[simp] theorem State.withHeldResult_intFlag : (s.withHeldResult b v).intFlag = s.intFlag := rfl

/-- The bus controller reads neither (`40_bus_phase_controller.md` R118). -/
theorem State.busComplete_withHeldResult :
    (s.withHeldResult b v).busComplete = s.busComplete.map (·.withHeldResult b v) := by
  unfold State.busComplete State.withHeldResult
  cases outstandingPhase s.bcCtrl with
  | none => rfl
  | some p => cases s.answers <;> rfl

theorem State.lateDue_withHeldResult : (s.withHeldResult b v).lateDue = s.lateDue := by
  unfold State.lateDue
  rw [State.withHeldResult_lateAt, State.withHeldResult_hostCmds, State.withHeldResult_bench,
    State.busComplete_withHeldResult, Option.isSome_map]

theorem State.attemptGate_withHeldResult : s.attemptGate.SameButHeldResult (s.withHeldResult b v).attemptGate := by
  by_cases h : s.retry.toNat < 50
  · rw [State.attemptGate_below h, State.attemptGate_below (s := s.withHeldResult b v) h]
    exact ⟨b, v, rfl⟩
  · have h : 50 ≤ s.retry.toNat := by omega
    rw [State.attemptGate_exhausted h, State.attemptGate_exhausted (s := s.withHeldResult b v) h]
    exact ⟨b, 0xFF#8, rfl⟩

theorem State.completeStart_withHeldResult :
    s.completeStart.SameButHeldResult (s.withHeldResult b v).completeStart := by
  unfold State.completeStart
  rw [State.withHeldResult_status]
  split
  · exact s.takeStatus.attemptGate_withHeldResult b v
  · split
    · exact ⟨b, 0xFF#8, rfl⟩
    · exact ⟨noteStart (cond s.status) b, v, rfl⟩

theorem State.completeAddress_withHeldResult (strict : Bool) :
    (s.completeAddress strict).SameButHeldResult ((s.withHeldResult b v).completeAddress strict) := by
  unfold State.completeAddress
  rw [State.withHeldResult_status, State.withHeldResult_ab]
  cases addrVerdict strict (directionOf s.ab) (cond s.status) with
  | retry => exact s.takeStatus.attemptGate_withHeldResult b v
  | abort => exact ⟨b, 0xFF#8, rfl⟩
  | acked => exact ⟨b, 0x00#8, rfl⟩

theorem State.completeWrite_withHeldResult :
    s.completeWrite.SameButHeldResult (s.withHeldResult b v).completeWrite := by
  unfold State.completeWrite
  rw [State.withHeldResult_status]
  split
  · exact ⟨b, 0x00#8, rfl⟩
  · exact ⟨b, 0xFF#8, rfl⟩

theorem State.completeRead_withHeldResult :
    s.completeRead.SameButHeldResult (s.withHeldResult b v).completeRead := by
  unfold State.completeRead
  rw [State.withHeldResult_status, State.withHeldResult_ackreq]
  split
  · exact ⟨b, 0x00#8, rfl⟩
  · exact ⟨b, 0xFF#8, rfl⟩

/-- The ghost bit of a returning call is computed from the old one, and goes nowhere else (`10_state.md` R33). -/
theorem State.returnPhase_withHeldResult :
    s.returnPhase.2.SameButHeldResult (s.withHeldResult b v).returnPhase.2 :=
  ⟨(s.withHeldResult b v).heldAfterPhase, v, rfl⟩

/-- No accept reads `held` or RESULT. -/
theorem State.accepted_withHeldResult (i : Instr) :
    (s.accepted i).SameButHeldResult ((s.withHeldResult b v).accepted i) := by
  cases i with
  | beginTransaction id sub dir =>
    simp only [State.accepted, State.acceptBegin_eq]
    exact ⟨b, v, rfl⟩
  | readByte a =>
    simp only [State.accepted, State.acceptRead_eq]
    exact ⟨b, v, rfl⟩
  | endTransaction =>
    simp only [State.accepted, State.acceptEnd_eq]
    exact ⟨false, 0x00#8, rfl⟩
  | writeByte | phStart | phDataNoack | phDataAck => exact ⟨b, v, rfl⟩
  | phStop =>
    simp only [State.accepted, State.requestPhase_stop]
    exact ⟨false, v, rfl⟩

theorem busStep_withHeldResult : AgreeButHeldResult (busStep s) (busStep (s.withHeldResult b v)) := by
  unfold busStep
  rw [State.busComplete_withHeldResult]
  cases s.busComplete with
  | none => exact .fault _
  | some t => exact .next ⟨b, v, rfl⟩

theorem waitStep_withHeldResult {u u' : State} (h : u.SameButHeldResult u') :
    AgreeButHeldResult (waitStep s u) (waitStep (s.withHeldResult b v) u') := by
  unfold waitStep
  rw [State.withHeldResult_intFlag]
  split
  · exact .next h
  · exact busStep_withHeldResult s b v

theorem acceptNext_withHeldResult (hs : s.seq = .idle) :
    AgreeButHeldResult (acceptNext s) (acceptNext (s.withHeldResult b v)) := by
  unfold acceptNext
  rw [State.withHeldResult_hostCmds]
  cases s.hostCmds with
  | nil => exact .fault _
  | cons w rest =>
    cases hd : decodeCmd w with
    | ok i =>
      simp only [hd]
      rw [exec_idle i (s := { s with hostCmds := rest }) hs,
        exec_idle i (s := { s.withHeldResult b v with hostCmds := rest }) hs]
      exact .next (State.accepted_withHeldResult { s with hostCmds := rest } b v i)
    | error e =>
      simp only [hd]
      exact .next ⟨b, 0xFF#8, rfl⟩

theorem idleStep_withHeldResult (hs : s.seq = .idle) :
    AgreeButHeldResult (idleStep s) (idleStep (s.withHeldResult b v)) := by
  cases hl : s.lateDue with
  | true =>
    obtain ⟨-, -, u, hu⟩ := State.lateDue_eq_true.1 hl
    have h : s.lateComplete = some { u with held := u.heldAfterPhase } :=
      State.lateComplete_eq_some.2 ⟨hl, u, hu, rfl⟩
    have h' : (s.withHeldResult b v).lateComplete
        = some { u.withHeldResult b v with held := (u.withHeldResult b v).heldAfterPhase } :=
      State.lateComplete_eq_some.2 ⟨by rw [State.lateDue_withHeldResult, hl], _,
        by rw [State.busComplete_withHeldResult, hu, Option.map_some], rfl⟩
    simp only [idleStep, h, h']
    exact .next ⟨(u.withHeldResult b v).heldAfterPhase, v, rfl⟩
  | false =>
    have hl' : (s.withHeldResult b v).lateDue = false := by rw [State.lateDue_withHeldResult, hl]
    simp only [idleStep, State.lateComplete_eq_none hl, State.lateComplete_eq_none hl', State.withHeldResult_bench]
    cases s.bench with
    | idle => exact acceptNext_withHeldResult s b v hs
    | holding => exact waitStep_withHeldResult s b v (s.returnPhase_withHeldResult b v)
    | presented c =>
      simp only [exec_idle (decodePhase c) (s := { s with bench := .idle }) hs,
        exec_idle (decodePhase c) (s := { s.withHeldResult b v with bench := .idle }) hs]
      exact .next (State.accepted_withHeldResult { s with bench := .idle } b v (decodePhase c))

/-- Steps from states that differ in `held` and RESULT alone agree but for those. -/
theorem advance_withHeldResult (strict : Bool) :
    AgreeButHeldResult (advance strict s) (advance strict (s.withHeldResult b v)) := by
  unfold advance
  rw [State.withHeldResult_resetIn, State.withHeldResult_seq]
  cases s.resetIn with
  | some u => exact .next ⟨false, u.result, rfl⟩
  | none =>
    cases hs : s.seq with
    | idle => exact idleStep_withHeldResult s b v hs
    | bStart => exact waitStep_withHeldResult s b v (s.completeStart_withHeldResult b v)
    | bAddr => exact waitStep_withHeldResult s b v (s.completeAddress_withHeldResult b v strict)
    | wData => exact waitStep_withHeldResult s b v (s.completeWrite_withHeldResult b v)
    | rData => exact waitStep_withHeldResult s b v (s.completeRead_withHeldResult b v)

end

/-- Settles O50: the two outcomes agree but for `held` and RESULT. -/
theorem heldAndResultSteerNothing : Obligations.HeldAndResultSteerNothing := by
  unfold Obligations.HeldAndResultSteerNothing
  intro strict s b v
  have h := advance_withHeldResult s b v strict
  exact ⟨fun t ht => (ht ▸ h).of_next, fun r hr => (hr ▸ h).of_fault⟩

end Sys2Proof.Machine
end

section
/-! Proofs of the family `10_state.md`: the direct call and the bus controller's completion (O15, O28). -/

namespace Sys2Proof.Machine

/-- A direct call of a phase that is waited for: the request, then the hold (`40_bus_phase_controller.md` R110,
R115). -/
theorem State.accepted_toInstr (s : State) {p : Phase} (hp : p ≠ .stop) :
    s.accepted p.toInstr =
      { s with
        bcCtrl := ctrlAfterWrite s.bcCtrl (pat p)
        hist := s.hist ++ [.req p s.bcData]
        accesses := s.accesses ++ [.wr .ctrl (pat p)]
        bench := .holding } := by
  cases p with
  | stop => exact absurd rfl hp
  | start | dataNoack | dataAck => rfl

/-- What a direct call in its hold becomes when its phase, just requested, is answered by `x`. -/
def State.answeredCall (s : State) (p : Phase) (x : Answer) (rest : List Answer) : State :=
  { s with
    bcStatus := x.s
    bcData := x.d
    bcCtrl := ctrlCompleted (ctrlAfterWrite s.bcCtrl (pat p))
    answers := rest
    hist := s.hist ++ [.req p s.bcData, .cpl p x.s x.d]
    accesses := s.accesses ++ [.wr .ctrl (pat p)]
    bench := .holding }

/-- The bus controller completes the phase a direct call has just requested, or never answers. -/
theorem busComplete_accepted_toInstr (s : State) {p : Phase} (hp : p ≠ .stop) :
    (s.accepted p.toInstr).busComplete =
      match s.answers with
      | [] => none
      | x :: rest => some (s.answeredCall p x rest) := by
  have ho : outstandingPhase (ctrlAfterWrite s.bcCtrl (pat p)) = some p := by
    simp [outstandingPhase_eq_some, hp]
  rw [State.accepted_toInstr s hp]
  unfold State.busComplete
  cases s.answers <;> simp [ho, State.answeredCall]

/-- The call that was answered returns what the command-level function says (`40_bus_phase_controller.md` R116). -/
theorem phaseCall_eq (s : State) {p : Phase} (hp : p ≠ .stop) :
    phaseCall p s =
      match s.answers with
      | [] => none
      | x :: rest => some (s.answeredCall p x rest).returnPhase := by
  rw [phaseCall_wait p s hp, drivePhase_eq p s hp]
  cases s.answers with
  | nil => rfl
  | cons x rest =>
    simp [State.answeredCall, State.returnPhase, State.takeStatus_eq, State.heldAfterPhase, State.driven, State.status]

/-- In the hold of a call just requested INT reads 0, so the bus controller steps
(`40_bus_phase_controller.md` R115). -/
theorem advance_requestedCall {strict : Bool} {s : State} {p : Phase} (hs : s.seq = .idle) (hr : s.resetIn = none)
    (hp : p ≠ .stop) : advance strict (s.accepted p.toInstr) = busStep (s.accepted p.toInstr) := by
  rw [State.accepted_toInstr s hp]
  refine (advance_holding ?_ ?_ ?_).trans (if_neg ?_)
  · exact hs
  · exact hr
  · rfl
  · simp [State.intFlag]

/-- Without an answer the call hangs (`60_exceptions.md` R212). -/
theorem advance_requestedCall_of_nil {strict : Bool} {s : State} {p : Phase} (hs : s.seq = .idle)
    (hr : s.resetIn = none) (hp : p ≠ .stop) (ha : s.answers = []) :
    advance strict (s.accepted p.toInstr) = .fault .phaseNotCompleted := by
  have hc : (s.accepted p.toInstr).busComplete = none := by rw [busComplete_accepted_toInstr s hp, ha]
  rw [advance_requestedCall hs hr hp, busStep, hc]

/-- With an answer its phase completes (`40_bus_phase_controller.md` R118). -/
theorem advance_requestedCall_of_cons {strict : Bool} {s : State} {p : Phase} {x : Answer} {rest : List Answer}
    (hs : s.seq = .idle) (hr : s.resetIn = none) (hp : p ≠ .stop) (ha : s.answers = x :: rest) :
    advance strict (s.accepted p.toInstr) = .next (s.answeredCall p x rest) := by
  rw [advance_requestedCall hs hr hp, busStep_eq_next, busComplete_accepted_toInstr s hp, ha]

/-- A call whose phase has completed returns (`40_bus_phase_controller.md` R116, R117). -/
theorem advance_answeredCall {strict : Bool} {s : State} {p : Phase} {x : Answer} {rest : List Answer}
    (hs : s.seq = .idle) (hr : s.resetIn = none) :
    advance strict (s.answeredCall p x rest) = .next (s.answeredCall p x rest).returnPhase.2 := by
  have hf : (s.answeredCall p x rest).intFlag = true := intOf_ctrlCompleted _
  rw [advance_holding (s := s.answeredCall p x rest) hs hr rfl, waitStep, if_pos hf]

/-- Settles O15: STOP in one step, and the other phases by request, completion and return, or by request and hang. -/
theorem directPhaseCallRuns : Obligations.DirectPhaseCallRuns := by
  unfold Obligations.DirectPhaseCallRuns
  intro strict s p hs hr hl hb
  have hreq := advance_benchCall (strict := strict) hs hr hl hb
  rw [decodePhase_toCode] at hreq
  by_cases hp : p = .stop
  · subst hp
    have ha : ({ s with bench := .idle }.requestPhase .stop).answers = s.answers := by
      rw [State.requestPhase_stop]
    have hlen : 1 + 2 * (s.answers.length - ({ s with bench := .idle }.requestPhase .stop).answers.length) = 1 := by
      simp [ha]
    exact ⟨(congrArg (advanceN strict · s) hlen).trans (advanceN_succ_of_next hreq), rfl, fun _ => ⟨rfl, ha⟩,
      fun h => absurd rfl h⟩
  · rw [phaseCall_eq _ hp]
    cases ha : s.answers with
    | nil =>
      have hhang := advance_requestedCall_of_nil (strict := strict) (s := { s with bench := .idle }) hs hr hp ha
      exact ⟨hp, rfl, by rw [advanceN_succ_of_next hreq, advanceN_succ_of_fault hhang]⟩
    | cons x rest =>
      have hcpl := advance_requestedCall_of_cons (strict := strict) (s := { s with bench := .idle }) hs hr hp ha
      have hret := advance_answeredCall (strict := strict) (s := { s with bench := .idle }) (p := p) (x := x)
        (rest := rest) hs hr
      have hlen : 1 + 2 * ((x :: rest).length - rest.length) = 3 := by simp
      have hrun := (advanceN_succ_of_next (n := 2) hreq).trans
        ((advanceN_succ_of_next hcpl).trans (advanceN_succ_of_next hret))
      have hans := (advanceN_succ_of_next (n := 1) hreq).trans (advanceN_succ_of_next hcpl)
      exact ⟨(congrArg (advanceN strict · s) hlen).trans hrun, rfl, fun h => absurd h hp,
        fun _ => ⟨x, rest, _, rfl, rfl, rfl, rfl, rfl, hans, rfl⟩⟩

/-- What a completed START makes of the ghost bit (`10_state.md` R33). -/
theorem noteStart_eq (c : Cond) (held : Bool) :
    noteStart c held = if c = .startTx ∨ c = .rstartTx then true else held := by
  by_cases h : c = .startTx ∨ c = .rstartTx
  · rcases h with rfl | rfl <;> simp [noteStart]
  · rw [if_neg h]
    obtain ⟨h1, h2⟩ := not_or.1 h
    rw [noteStart, beq_false_of_ne h1, beq_false_of_ne h2, Bool.or_false, Bool.or_false]

/-- A late completion, where it is due (`40_bus_phase_controller.md` R118, `10_state.md` R33, logs 16, 31). -/
theorem advance_late_eq {strict : Bool} {s : State} {p : Phase} {x : Answer} {rest : List Answer} {k : Nat}
    (hr : s.resetIn = none) (hs : s.seq = .idle) (hf : s.intFlag = false) (hb : s.bench ≠ .holding)
    (hk : s.lateAt = some k) (hle : s.hostCmds.length ≤ k) (hl : lastPhase s.bcCtrl = some p) (hp : p ≠ .stop)
    (ha : s.answers = x :: rest) :
    advance strict s = .next
      { s with
        bcStatus := x.s
        bcData := x.d
        bcCtrl := ctrlCompleted s.bcCtrl
        answers := rest
        hist := s.hist ++ [.cpl p x.s x.d]
        held := if p = .start ∧ (cond (maskStatus x.s) = .startTx ∨ cond (maskStatus x.s) = .rstartTx) then true
          else s.held } := by
  have hc := State.busComplete_eq hf hl hp ha
  have hd : s.lateDue = true := State.lateDue_eq_true.2 ⟨⟨k, hk, hle⟩, hb, _, hc⟩
  refine advance_late hr hs (State.lateComplete_eq_some.2 ⟨hd, _, hc, ?_⟩)
  simp only [State.heldAfterPhase, State.status, lastPhase_ctrlCompleted, hl, Option.some.injEq, noteStart_eq, ite_and]

/-- The completion step while a command or a direct call waits (`40_bus_phase_controller.md` R118). -/
theorem advance_completes {strict : Bool} {s : State} {p : Phase} {x : Answer} {rest : List Answer}
    (hr : s.resetIn = none) (hw : s.waiting ∨ s.seq = .idle ∧ s.intFlag = false ∧ s.bench = .holding)
    (hl : lastPhase s.bcCtrl = some p) (hp : p ≠ .stop) (ha : s.answers = x :: rest) :
    advance strict s = .next
      { s with
        bcStatus := x.s
        bcData := x.d
        bcCtrl := ctrlCompleted s.bcCtrl
        answers := rest
        hist := s.hist ++ [.cpl p x.s x.d] } := by
  obtain ⟨hs, hf⟩ | ⟨hs, hf, hb⟩ := hw
  · rw [advance_bus hr hs hf, busStep_eq_next, State.busComplete_eq hf hl hp ha]
  · rw [advance_holding hs hr hb, waitStep, if_neg (by simp [hf]), busStep_eq_next, State.busComplete_eq hf hl hp ha]

/-- A bus controller not reset with the CORE keeps BC.CTRL (`70_reset_and_hazards.md` R231). -/
theorem State.takeReset_bcCtrl (s : State) {u : ResetLeaves} (hu : u.bc = none) :
    (s.takeReset u).bcCtrl = s.bcCtrl := by
  simp [State.takeReset, hu]

/-- Settles O28: while the CORE waits, late in IDLE, and late after the reset that abandoned the phase. -/
theorem busControllerCompletes : Obligations.BusControllerCompletes := by
  unfold Obligations.BusControllerCompletes
  refine ⟨?_, ?_, ?_⟩
  · intro strict s p x rest hr hw hl hp ha
    exact advance_completes hr hw hl hp ha
  · intro strict s p x rest k hr hs hf hb hk hle hl hp ha
    exact advance_late_eq hr hs hf hb hk hle hl hp ha
  · intro strict s u p x rest hr hu hf hl hp ha
    have hreset := advance_reset (strict := strict) hr
    have hc := s.takeReset_bcCtrl hu
    constructor
    · intro k hk hle
      have hf' : (s.takeReset u).intFlag = false := by rw [State.intFlag, hc]; exact hf
      have hl' : lastPhase (s.takeReset u).bcCtrl = some p := by rw [hc]; exact hl
      have hlate := advance_late_eq (strict := strict) (s := s.takeReset u) rfl rfl hf' nofun hk hle hl' hp ha
      have hrun : advanceN strict 2 s = _ := (advanceN_succ_of_next hreset).trans (advanceN_succ_of_next hlate)
      refine ⟨_, hrun, rfl, rfl, rfl, rfl, congrArg ctrlCompleted hc, rfl, rfl, rfl, rfl, rfl, ?_⟩
      exact ⟨fun h => by_contra fun hn => Bool.false_ne_true ((if_neg hn).symm.trans h), fun h => if_pos h⟩
    · intro hk
      refine ⟨s.takeReset u, hreset, ⟨rfl, rfl, rfl, ?_⟩, hc, rfl⟩
      simp [State.lateDue, State.takeReset, hk]

end Sys2Proof.Machine
end

section
/-! Proofs of the family `10_state.md`: control patterns, reset, the boot write and STAT (O7, O34, O35, O36, O51). -/

namespace Sys2Proof.Machine

/-- The patterns leave the interrupt enable 0 (`30_encoding.md` R89, `10_state.md` R28). -/
theorem interruptEnable_ctrlAfterWrite_pat (p : Phase) (old : Byte) :
    (ctrlAfterWrite old (pat p)).getLsbD 0 = false := by
  revert old; cases p <;> decide

/-- Settles O7: the phase is read back from its pattern, so the patterns are injective. -/
theorem controlPatterns : Obligations.ControlPatterns := by
  unfold Obligations.ControlPatterns
  refine ⟨by decide, ?_, fun p s => ⟨?_, ?_, ?_⟩⟩
  · intro p q h
    have hp : lastPhase (ctrlAfterWrite 0x00#8 (pat p)) = some p := lastPhase_ctrlAfterWrite_pat p 0x00#8
    rw [h, lastPhase_ctrlAfterWrite_pat] at hp
    exact (Option.some.inj hp).symm
  · exact intOf_ctrlAfterWrite_pat p s.bcCtrl
  · exact interruptEnable_ctrlAfterWrite_pat p s.bcCtrl
  · exact lastPhase_ctrlAfterWrite_pat p s.bcCtrl

/-- Settles O34. -/
theorem resetState : Obligations.ResetState := by
  unfold Obligations.ResetState
  decide

/-- A bus controller that is reset with the CORE has no phase to complete (`10_state.md` R37). -/
theorem State.busComplete_takeReset {s : State} {u : ResetLeaves} {r : BcRegs} (h : u.bc = some r) :
    (s.takeReset u).busComplete = none := by
  have ho : outstandingPhase (s.takeReset u).bcCtrl = none := by simp [State.takeReset, h]
  simp [State.busComplete, ho]

/-- Settles O35: the next state is `State.takeReset`, field by field. -/
theorem resetEvent : Obligations.ResetEvent := by
  unfold Obligations.ResetEvent
  intro strict s u hr
  refine ⟨s.takeReset u, advance_reset hr, rfl, rfl, rfl, rfl, rfl, rfl, rfl, rfl, rfl, rfl, rfl, rfl, rfl, rfl, rfl,
    ?_, ?_⟩
  · intro hu
    simp [State.takeReset, hu]
  · intro r hu
    exact ⟨by simp [State.takeReset, hu, ctrlDisabled], by simp [State.takeReset, hu], by simp [State.takeReset, hu],
      State.busComplete_takeReset hu⟩

/-- The mask drops the low three bits, whatever they are (`30_encoding.md` R90). -/
theorem maskStatus_append (c : Byte) (ps : BitVec 3) :
    maskStatus (c.extractLsb' 3 5 ++ ps) = maskStatus c := by
  apply BitVec.eq_of_getLsbD_eq
  intro k hk
  simp only [maskStatus, Config.statusMask, BitVec.getLsbD_and, BitVec.getLsbD_append]
  interval_cases k <;> simp

/-- Settles O36: the prescaler is the low part of an append, and the mask drops it. -/
theorem bootPrescalerMasked : Obligations.BootPrescalerMasked := by
  unfold Obligations.BootPrescalerMasked
  intro s ps
  refine ⟨?_, ?_, ?_, rfl⟩
  · exact BitVec.extractLsb'_append_eq_right
  · exact BitVec.extractLsb'_append_eq_left
  · exact maskStatus_append _ ps

/-- Settles O51: STAT is an append of its three fields. -/
theorem statusWord : Obligations.StatusWord := by
  unfold Obligations.StatusWord
  intro s
  refine ⟨?_, ?_, ?_⟩
  · simp only [State.stat, BitVec.getLsbD_append]
    simp
  · simp only [State.stat, BitVec.getLsbD_append]
    simp
  · exact BitVec.extractLsb'_append_eq_right

end Sys2Proof.Machine
end

section
/-! Proofs of the family `20_memory.md`: the accesses of a step and of a whole command (O17, O47, O48). -/

namespace Sys2Proof.Machine

/-- Settles O17: an idle CORE accepts, and the DATA_NOACK pattern leaves its bits and the old WC in BC.CTRL. -/
theorem writeAccepts : Obligations.WriteAccepts := by
  unfold Obligations.WriteAccepts
  intro v s hs
  rw [exec_idle _ hs, State.accepted, State.acceptWrite_eq, ctrlAfterWrite_dataNoack]
  rfl

/-- What the access rights allow a step from `s` to `t` (`20_memory.md` R52): BC.STATUS is read only, BC.CTRL takes a
pattern, and BC.DATA is read as the RDATA of a successful READ. -/
def State.MayAccess (s t : State) : Access → Prop
  | .wr .status _ => False
  | .wr .ctrl v => ∃ p, v = pat p
  | .wr .data _ => True
  | .rd .ctrl _ => True
  | .rd .status _ => True
  | .rd .data v =>
    s.seq = .rData ∧ s.intFlag = true ∧ cond s.status = wantedCond s.ackreq ∧ v = s.bcData ∧ t.rdata = v

/-- The step from `s` to `t` adds to the access list only what the rights allow. -/
def State.KeepsAccessRights (s t : State) : Prop :=
  ∃ new, t.accesses = s.accesses ++ new ∧ ∀ a ∈ new, s.MayAccess t a

theorem pat_cases (p : Phase) : pat p = 0xA4#8 ∨ pat p = 0x84#8 ∨ pat p = 0xC4#8 ∨ pat p = 0x94#8 := by
  cases p <;> simp [pat]

section
variable {s t : State}

theorem State.mayAccess_pat (p : Phase) : s.MayAccess t (.wr .ctrl (pat p)) := ⟨p, rfl⟩

theorem State.KeepsAccessRights.of_silent (h : t.accesses = s.accesses) : s.KeepsAccessRights t :=
  ⟨[], by simpa using h, by simp⟩

/-- A phase requested (`40_bus_phase_controller.md` R110). -/
theorem State.KeepsAccessRights.of_request (p : Phase) (h : t.accesses = s.accesses ++ [.wr .ctrl (pat p)]) :
    s.KeepsAccessRights t :=
  ⟨_, h, by simp [State.mayAccess_pat]⟩

/-- A status taken (`40_bus_phase_controller.md` R115, R116). -/
theorem State.KeepsAccessRights.of_status {c st : Byte}
    (h : t.accesses = s.accesses ++ [.rd .ctrl c, .rd .status st]) : s.KeepsAccessRights t :=
  ⟨_, h, by simp [State.MayAccess]⟩

end

/-- An accept requests a phase, a WRITE after it has loaded its byte (`20_memory.md` R58). -/
theorem State.keepsAccessRights_accepted (s : State) {i : Instr} (h : i.isHostCommand = true) :
    s.KeepsAccessRights (s.accepted i) := by
  obtain ⟨id, sub, dir, rfl⟩ | ⟨v, rfl⟩ | ⟨a, rfl⟩ | rfl := hostCommand_cases h
  · rw [State.accepted, State.acceptBegin_eq]; exact .of_request .start rfl
  · rw [State.accepted, State.acceptWrite_eq]
    exact ⟨_, rfl, by simp [State.MayAccess]⟩
  · rw [State.accepted, State.acceptRead_eq]; exact .of_request (readPhase a) rfl
  · rw [State.accepted, State.acceptEnd_eq]; exact .of_request .stop rfl

/-- Every step keeps within the access rights. -/
theorem keepsAccessRights_advance {strict : Bool} {s t : State} (h : advance strict s = .next t) :
    s.KeepsAccessRights t := by
  cases advance_effect h with
  | reset | bus | late | illegal => exact .of_silent rfl
  | fail | ok | benchReturn => exact .of_status rfl
  | benchWait p => exact .of_request p rfl
  | benchStop => exact .of_request .stop rfl
  | retry | issue => exact ⟨_, rfl, by simp [State.MayAccess]⟩
  | readOk _ hf hs hc => exact ⟨_, rfl, by simp [State.MayAccess, hf, hs, hc]⟩
  | accept w rest i t _ _ _ _ _ _ hi ht =>
    subst ht
    obtain ⟨new, hnew, hmay⟩ := State.keepsAccessRights_accepted { s with hostCmds := rest } hi
    exact ⟨new, hnew, hmay⟩

/-- Settles O47: the accesses a step adds are allowed, register by register. -/
theorem accessRights : Obligations.AccessRights := by
  unfold Obligations.AccessRights
  intro strict s t ha
  obtain ⟨new, hnew, hmay⟩ := keepsAccessRights_advance ha
  refine ⟨new, hnew, fun v => hmay (.wr .status v), fun v hv => ?_, fun v => hmay (.rd .data v)⟩
  obtain ⟨p, rfl⟩ := hmay (.wr .ctrl v) hv
  exact pat_cases p

/-- A driven phase writes its pattern, polls once and reads the status (`20_memory.md` R58, log 17). -/
theorem accesses_drivePhase {p : Phase} {s t : State} {st : Byte} (hp : p ≠ .stop)
    (h : drivePhase p s = some (st, t)) :
    ∃ a b, t.accesses = s.accesses ++ [.wr .ctrl (pat p), .rd .ctrl a, .rd .status b] := by
  rw [drivePhase_eq p s hp] at h
  split at h
  · cases h
  · cases h
    exact ⟨_, _, rfl⟩

/-- A WRITE that ends drives its one phase from the byte loaded, and its answer accesses nothing more
(`42_byte_transfer_and_end.md` R150). -/
theorem accesses_writeWhole {v : Byte} {s t : State} (h : writeWhole v s = some t) :
    ∃ a b, t.accesses = s.accesses ++ [.wr .data v, .wr .ctrl 0x84#8, .rd .ctrl a, .rd .status b] := by
  unfold writeWhole at h
  split at h
  · cases h
  · next st u hd =>
    obtain ⟨a, b, hu⟩ := accesses_drivePhase (p := .dataNoack) nofun hd
    have ht : t.accesses = u.accesses := by split at h <;> cases h <;> rfl
    exact ⟨a, b, by simp [ht, hu, State.writeData, pat]⟩

/-- The pattern of a READ (`42_byte_transfer_and_end.md` R152). -/
theorem pat_readPhase (q : Bool) : pat (readPhase q) = if q then 0xC4#8 else 0x84#8 := by cases q <;> rfl

/-- A READ that ends drives its one phase, and reads BC.DATA after it only to succeed (`42_byte_transfer_and_end.md`
R152). -/
theorem accesses_readWhole {q : Bool} {s t : State} (h : readWhole q s = some t) :
    ∃ a b, t.accesses = s.accesses ++
      ([.wr .ctrl (if q then 0xC4#8 else 0x84#8), .rd .ctrl a, .rd .status b]
        ++ if t.result = 0x00#8 then [.rd .data t.rdata] else []) := by
  unfold readWhole at h
  split at h
  · cases h
  · next st u hd =>
    obtain ⟨a, b, hu⟩ := accesses_drivePhase (readPhase_ne_stop q) hd
    have ht : t.accesses = u.accesses ++ if t.result = 0x00#8 then [.rd .data t.rdata] else [] := by
      split at h
      · cases h
        rfl
      · cases h
        exact (List.append_nil _).symm
    exact ⟨a, b, by rw [ht, hu, pat_readPhase, ← List.append_assoc]; rfl⟩

/-- Settles O48, a command at a time. -/
theorem accessOrderOfCommands : Obligations.AccessOrderOfCommands := by
  unfold Obligations.AccessOrderOfCommands
  refine ⟨fun _ _ _ _ h => accesses_writeWhole h, fun _ _ _ _ h => accesses_readWhole h, fun strict s t h => ?_⟩
  have ht : s.acceptEnd = t := Option.some.inj h
  rw [← ht, State.acceptEnd_eq]
  rfl

end Sys2Proof.Machine
end

section
/-! Proofs of the family `20_memory.md`: the host cannot disturb a command in progress (O49). -/

namespace Sys2Proof.Machine

/-- `s` with other commands left to the host. -/
def State.withHostCmds (s : State) (ws : List CmdWord) : State := { s with hostCmds := ws }

/-- An outcome with other commands left to the host in its next state, if it has one. -/
def outcomeWithHostCmds (ws : List CmdWord) :
    Host.Outcome State Fault Refusal → Host.Outcome State Fault Refusal
  | .next t => .next (t.withHostCmds ws)
  | .fault r => .fault r
  | .refused r => .refused r

section
variable (s : State) (ws : List CmdWord)

@[simp] theorem State.withHostCmds_seq : (s.withHostCmds ws).seq = s.seq := rfl
@[simp] theorem State.withHostCmds_ab : (s.withHostCmds ws).ab = s.ab := rfl
@[simp] theorem State.withHostCmds_ackreq : (s.withHostCmds ws).ackreq = s.ackreq := rfl
@[simp] theorem State.withHostCmds_resetIn : (s.withHostCmds ws).resetIn = s.resetIn := rfl
@[simp] theorem State.withHostCmds_status : (s.withHostCmds ws).status = s.status := rfl
@[simp] theorem State.withHostCmds_intFlag : (s.withHostCmds ws).intFlag = s.intFlag := rfl

/-! No completing operation reads the host's list, so each commutes with its replacement. -/

theorem State.busComplete_withHostCmds :
    (s.withHostCmds ws).busComplete = s.busComplete.map (·.withHostCmds ws) := by
  unfold State.busComplete State.withHostCmds
  cases outstandingPhase s.bcCtrl with
  | none => rfl
  | some p => cases s.answers <;> rfl

theorem State.attemptGate_withHostCmds : (s.withHostCmds ws).attemptGate = s.attemptGate.withHostCmds ws := by
  by_cases h : s.retry.toNat < 50
  · rw [State.attemptGate_below h, State.attemptGate_below (s := s.withHostCmds ws) h]
    rfl
  · have h : 50 ≤ s.retry.toNat := by omega
    rw [State.attemptGate_exhausted h, State.attemptGate_exhausted (s := s.withHostCmds ws) h]
    rfl

theorem State.completeStart_withHostCmds :
    (s.withHostCmds ws).completeStart = s.completeStart.withHostCmds ws := by
  unfold State.completeStart
  rw [State.withHostCmds_status]
  split
  · exact s.takeStatus.attemptGate_withHostCmds ws
  · split <;> rfl

theorem State.completeAddress_withHostCmds (strict : Bool) :
    (s.withHostCmds ws).completeAddress strict = (s.completeAddress strict).withHostCmds ws := by
  unfold State.completeAddress
  rw [State.withHostCmds_status, State.withHostCmds_ab]
  cases addrVerdict strict (directionOf s.ab) (cond s.status) with
  | retry => exact s.takeStatus.attemptGate_withHostCmds ws
  | abort | acked => rfl

theorem State.completeWrite_withHostCmds :
    (s.withHostCmds ws).completeWrite = s.completeWrite.withHostCmds ws := by
  unfold State.completeWrite
  rw [State.withHostCmds_status]
  split <;> rfl

theorem State.completeRead_withHostCmds : (s.withHostCmds ws).completeRead = s.completeRead.withHostCmds ws := by
  unfold State.completeRead
  rw [State.withHostCmds_status, State.withHostCmds_ackreq]
  split <;> rfl

theorem busStep_withHostCmds : busStep (s.withHostCmds ws) = outcomeWithHostCmds ws (busStep s) := by
  unfold busStep
  rw [State.busComplete_withHostCmds]
  cases s.busComplete <;> rfl

theorem waitStep_withHostCmds (u : State) :
    waitStep (s.withHostCmds ws) (u.withHostCmds ws) = outcomeWithHostCmds ws (waitStep s u) := by
  unfold waitStep
  rw [State.withHostCmds_intFlag]
  split
  · rfl
  · exact busStep_withHostCmds s ws

/-- While a command is in progress a step commutes with the replacement of the host's list (`20_memory.md` R62). -/
theorem advance_withHostCmds (strict : Bool) (hs : s.seq ≠ .idle) :
    advance strict (s.withHostCmds ws) = outcomeWithHostCmds ws (advance strict s) := by
  unfold advance
  rw [State.withHostCmds_resetIn, State.withHostCmds_seq]
  cases s.resetIn with
  | some u => rfl
  | none =>
    cases hq : s.seq with
    | idle => exact absurd hq hs
    | bStart => simp only [State.completeStart_withHostCmds, waitStep_withHostCmds]
    | bAddr => simp only [State.completeAddress_withHostCmds, waitStep_withHostCmds]
    | wData => simp only [State.completeWrite_withHostCmds, waitStep_withHostCmds]
    | rData => simp only [State.completeRead_withHostCmds, waitStep_withHostCmds]

end

/-- Settles O49: the outcome is the old one with the new list in its next state. -/
theorem hostCannotDisturbCommand : Obligations.HostCannotDisturbCommand := by
  unfold Obligations.HostCannotDisturbCommand
  intro strict s ws hs
  have h := advance_withHostCmds s ws strict hs
  exact ⟨fun t ht => h.trans (congrArg (outcomeWithHostCmds ws) ht),
    fun r hr => h.trans (congrArg (outcomeWithHostCmds ws) hr)⟩

end Sys2Proof.Machine
end

section
/-! Proofs of the family `30_encoding.md`: the decoder by the operation field, and the encoder (O1, O2, O4, O5). -/

namespace Sys2Proof

theorem Direction.ofBit_toBit (d : Direction) : Direction.ofBit d.toBit = d := by cases d <;> rfl

theorem Direction.toBit_ofBit (b : Bool) : (Direction.ofBit b).toBit = b := by cases b <;> rfl

theorem CmdWord.op_cases (w : CmdWord) :
    CmdWord.op w = 0b00#2 ∨ CmdWord.op w = 0b01#2 ∨ CmdWord.op w = 0b10#2 ∨ CmdWord.op w = 0b11#2 := by
  generalize CmdWord.op w = o
  revert o; decide

/-! The decoder on each value of the field `op` (`30_encoding.md` R82, R87). -/

theorem decodeCmd_of_op_begin {w : CmdWord} (h : CmdWord.op w = 0b00#2) :
    decodeCmd w = .ok (.beginTransaction (CmdWord.a w) (CmdWord.b w) (Direction.ofBit (CmdWord.f w))) := by
  simp [decodeCmd, h]

theorem decodeCmd_of_op_write {w : CmdWord} (h : CmdWord.op w = 0b01#2) :
    decodeCmd w = if CmdWord.f w = false ∧ CmdWord.a w = 0x00#8 then .ok (.writeByte (CmdWord.b w))
      else .error .reservedBitsOfWrite := by
  simp [decodeCmd, h]

theorem decodeCmd_of_op_read {w : CmdWord} (h : CmdWord.op w = 0b10#2) :
    decodeCmd w = if CmdWord.a w = 0x00#8 ∧ CmdWord.b w = 0x00#8 then .ok (.readByte (CmdWord.f w))
      else .error .reservedBitsOfRead := by
  simp [decodeCmd, h]

theorem decodeCmd_of_op_end {w : CmdWord} (h : CmdWord.op w = 0b11#2) :
    decodeCmd w = if CmdWord.f w = false ∧ CmdWord.a w = 0x00#8 ∧ CmdWord.b w = 0x00#8 then .ok .endTransaction
      else .error .reservedBitsOfEnd := by
  simp [decodeCmd, h]

/-! The four assembled words decode to their commands (`30_encoding.md` R98). -/

theorem decodeCmd_beginWord (id sub : Byte) (dir : Direction) :
    decodeCmd (beginWord id sub dir) = .ok (.beginTransaction id sub dir) := by
  rw [beginWord, decodeCmd_of_op_begin (CmdWord.op_mk ..), CmdWord.a_mk, CmdWord.b_mk, CmdWord.f_mk,
    Direction.ofBit_toBit]

theorem decodeCmd_writeWord (v : Byte) : decodeCmd (writeWord v) = .ok (.writeByte v) := by
  rw [writeWord, decodeCmd_of_op_write (CmdWord.op_mk ..), if_pos ⟨CmdWord.f_mk .., CmdWord.a_mk ..⟩, CmdWord.b_mk]

theorem decodeCmd_readWord (a : Bool) : decodeCmd (readWord a) = .ok (.readByte a) := by
  rw [readWord, decodeCmd_of_op_read (CmdWord.op_mk ..), if_pos ⟨CmdWord.a_mk .., CmdWord.b_mk ..⟩, CmdWord.f_mk]

theorem decodeCmd_endWord : decodeCmd endWord = .ok .endTransaction := by decide

theorem encode_toInstr (p : Phase) : encode p.toInstr = .phase p.toCode := by cases p <;> rfl

/-- A command word that decodes is rebuilt from the fields its operation uses, the others being zero
(`30_encoding.md` R87). -/
theorem encode_of_decodeCmd {w : CmdWord} {i : Instr} (h : decodeCmd w = .ok i) : encode i = .cmd w := by
  have hw := CmdWord.mk_fields w
  rcases CmdWord.op_cases w with hop | hop | hop | hop
  · rw [decodeCmd_of_op_begin hop] at h
    cases h
    rw [encode, beginWord, Direction.toBit_ofBit, ← hop, hw]
  · rw [decodeCmd_of_op_write hop] at h
    split at h
    · next hz =>
      obtain ⟨hf, ha⟩ := hz
      cases h
      rw [hop, hf, ha] at hw
      exact congrArg Code.cmd hw
    · cases h
  · rw [decodeCmd_of_op_read hop] at h
    split at h
    · next hz =>
      obtain ⟨ha, hb⟩ := hz
      cases h
      rw [hop, ha, hb] at hw
      exact congrArg Code.cmd hw
    · cases h
  · rw [decodeCmd_of_op_end hop] at h
    split at h
    · next hz =>
      obtain ⟨hf, ha, hb⟩ := hz
      cases h
      rw [hop, hf, ha, hb] at hw
      exact congrArg Code.cmd hw
    · cases h

/-- Settles O1, an instruction at a time. -/
theorem decodeAfterEncode : Obligations.DecodeAfterEncode := by
  unfold Obligations.DecodeAfterEncode
  intro i
  cases i with
  | beginTransaction id sub dir => exact decodeCmd_beginWord id sub dir
  | writeByte v => exact decodeCmd_writeWord v
  | readByte a => exact decodeCmd_readWord a
  | endTransaction => exact decodeCmd_endWord
  | phStart => exact congrArg Except.ok (decodePhase_toCode .start)
  | phDataNoack => exact congrArg Except.ok (decodePhase_toCode .dataNoack)
  | phDataAck => exact congrArg Except.ok (decodePhase_toCode .dataAck)
  | phStop => exact congrArg Except.ok (decodePhase_toCode .stop)

/-- Settles O2: a command word by its operation, a phase code by its phase. -/
theorem encodeAfterDecode : Obligations.EncodeAfterDecode := by
  unfold Obligations.EncodeAfterDecode
  intro c i h
  cases c with
  | cmd w => exact encode_of_decodeCmd h
  | phase c =>
    cases h
    rw [decodePhase, encode_toInstr, toCode_ofCode]

/-- Settles O4: each row of the table is its word by definition, and the examples are assembled words. -/
theorem assemblerSyntax : Obligations.AssemblerSyntax := by
  unfold Obligations.AssemblerSyntax
  refine ⟨fun id sub v => ⟨rfl, rfl, rfl, rfl, rfl, rfl⟩, ?_, ?_, ?_, ?_, ?_, ?_, ?_⟩
  · exact decodeCmd_beginWord 0x40#8 0x02#8 .write
  · exact decodeCmd_beginWord 0x40#8 0x02#8 .read
  · exact decodeCmd_beginWord 0x90#8 0x00#8 .read
  · exact decodeCmd_writeWord 0x09#8
  · exact decodeCmd_readWord true
  · exact decodeCmd_readWord false
  · exact decodeCmd_endWord

/-- Settles O5. -/
theorem phaseCodes : Obligations.PhaseCodes := by
  unfold Obligations.PhaseCodes
  exact ⟨⟨decodePhase_toCode .start, decodePhase_toCode .dataNoack, decodePhase_toCode .dataAck,
    decodePhase_toCode .stop⟩, fun _ _ => decodeCmd_isHostCommand⟩

end Sys2Proof
end

section
/-! Proofs of the family `30_encoding.md`: illegal command words (O3, O21). -/

namespace Sys2Proof

/-- A command word is its four fields. -/
theorem CmdWord.eq_iff_fields {w w' : CmdWord} :
    w = w' ↔ CmdWord.op w = CmdWord.op w' ∧ CmdWord.f w = CmdWord.f w' ∧ CmdWord.a w = CmdWord.a w'
      ∧ CmdWord.b w = CmdWord.b w' := by
  constructor
  · rintro rfl
    exact ⟨rfl, rfl, rfl, rfl⟩
  · rintro ⟨hop, hf, ha, hb⟩
    rw [← CmdWord.mk_fields w, hop, hf, ha, hb, CmdWord.mk_fields]

/-- `w & mask = match`, field by field. -/
theorem CmdRow.selects_iff (r : CmdRow) (w : CmdWord) :
    r.selects w = true ↔
      CmdWord.op w &&& CmdWord.op r.mask = CmdWord.op r.pattern
      ∧ (CmdWord.f w && CmdWord.f r.mask) = CmdWord.f r.pattern
      ∧ CmdWord.a w &&& CmdWord.a r.mask = CmdWord.a r.pattern
      ∧ CmdWord.b w &&& CmdWord.b r.mask = CmdWord.b r.pattern := by
  rw [CmdRow.selects, beq_iff_eq, CmdWord.eq_iff_fields]
  simp [CmdWord.op, CmdWord.f, CmdWord.a, CmdWord.b, BitVec.extractLsb'_and]

/-- The mask and match table with its words cut into fields (`30_encoding.md` R82): a mask covers the operation and the
fields that the operation reserves. -/
theorem cmdRows_eq :
    cmdRows =
      [ ⟨"BEGIN", .mk 0b00#2 false 0x00#8 0x00#8, .mk (.allOnes 2) false 0x00#8 0x00#8⟩,
        ⟨"WRITE", .mk 0b01#2 false 0x00#8 0x00#8, .mk (.allOnes 2) true (.allOnes 8) 0x00#8⟩,
        ⟨"READ", .mk 0b10#2 false 0x00#8 0x00#8, .mk (.allOnes 2) false (.allOnes 8) (.allOnes 8)⟩,
        ⟨"END", .mk 0b11#2 false 0x00#8 0x00#8, .mk (.allOnes 2) true (.allOnes 8) (.allOnes 8)⟩ ] := rfl

/-- The legal words, by operation (`30_encoding.md` R82). -/
theorem legalWord_iff (w : CmdWord) :
    legalWord w = true ↔
      CmdWord.op w = 0b00#2
      ∨ CmdWord.op w = 0b01#2 ∧ CmdWord.f w = false ∧ CmdWord.a w = 0x00#8
      ∨ CmdWord.op w = 0b10#2 ∧ CmdWord.a w = 0x00#8 ∧ CmdWord.b w = 0x00#8
      ∨ CmdWord.op w = 0b11#2 ∧ CmdWord.f w = false ∧ CmdWord.a w = 0x00#8 ∧ CmdWord.b w = 0x00#8 := by
  simp only [legalWord, cmdRows_eq, List.any_cons, List.any_nil, Bool.or_eq_true, CmdRow.selects_iff, CmdWord.op_mk,
    CmdWord.f_mk, CmdWord.a_mk, CmdWord.b_mk, BitVec.and_allOnes]
  simp

/-- The decoder rejects exactly the words that match no row (`30_encoding.md` R87). -/
theorem decodeCmd_error_iff (w : CmdWord) : (∃ e, decodeCmd w = .error e) ↔ legalWord w = false := by
  rw [← Bool.not_eq_true, legalWord_iff]
  rcases CmdWord.op_cases w with hop | hop | hop | hop
  · simp [decodeCmd_of_op_begin hop, hop]
  · rw [decodeCmd_of_op_write hop]
    split <;> simp [*]
  · rw [decodeCmd_of_op_read hop]
    split <;> simp [*]
  · rw [decodeCmd_of_op_end hop]
    split <;> simp [*]

/-! The three reserved ranges are appended fields (`30_encoding.md` R81, R87). -/

theorem append_eq_zero_iff {m n : Nat} {x : BitVec m} {y : BitVec n} : x ++ y = 0#(m + n) ↔ x = 0#m ∧ y = 0#n := by
  constructor
  · intro h
    have hx := congrArg (BitVec.extractLsb' n m) h
    have hy := congrArg (BitVec.extractLsb' 0 n) h
    rw [BitVec.extractLsb'_append_eq_left, BitVec.extractLsb'_zero] at hx
    rw [BitVec.extractLsb'_append_eq_right, BitVec.extractLsb'_zero] at hy
    exact ⟨hx, hy⟩
  · rintro ⟨rfl, rfl⟩
    exact BitVec.zero_append_zero

theorem CmdWord.bit_16_eq_zero_iff (w : CmdWord) : w.extractLsb' 16 1 = 0#1 ↔ CmdWord.f w = false := by
  have h : ∀ x : BitVec 1, x = 0#1 ↔ x.getLsbD 0 = false := by decide
  rw [h, BitVec.getLsbD_extractLsb', CmdWord.f]
  simp

theorem CmdWord.bits_16_8_eq_zero_iff (w : CmdWord) :
    w.extractLsb' 8 9 = 0#9 ↔ CmdWord.f w = false ∧ CmdWord.a w = 0x00#8 := by
  have hcut : w.extractLsb' 16 1 ++ w.extractLsb' 8 8 = w.extractLsb' 8 9 :=
    BitVec.extractLsb'_append_extractLsb'_eq_extractLsb' rfl
  rw [← hcut, ← CmdWord.bit_16_eq_zero_iff]
  exact append_eq_zero_iff

theorem CmdWord.bits_15_0_eq_zero_iff (w : CmdWord) :
    w.extractLsb' 0 16 = 0#16 ↔ CmdWord.a w = 0x00#8 ∧ CmdWord.b w = 0x00#8 := by
  have hcut : w.extractLsb' 8 8 ++ w.extractLsb' 0 8 = w.extractLsb' 0 16 :=
    BitVec.extractLsb'_append_extractLsb'_eq_extractLsb' rfl
  rw [← hcut]
  exact append_eq_zero_iff

theorem CmdWord.bits_16_0_eq_zero_iff (w : CmdWord) :
    w.extractLsb' 0 17 = 0#17 ↔ CmdWord.f w = false ∧ CmdWord.a w = 0x00#8 ∧ CmdWord.b w = 0x00#8 := by
  have hcut : w.extractLsb' 16 1 ++ w.extractLsb' 0 16 = w.extractLsb' 0 17 :=
    BitVec.extractLsb'_append_extractLsb'_eq_extractLsb' rfl
  rw [← hcut, ← CmdWord.bit_16_eq_zero_iff, ← CmdWord.bits_15_0_eq_zero_iff]
  exact append_eq_zero_iff

/-- Settles O3: in each operation the reserved range is zero exactly when the fields the row masks are. -/
theorem illegalWordsAreThoseWithReservedBits : Obligations.IllegalWordsAreThoseWithReservedBits := by
  unfold Obligations.IllegalWordsAreThoseWithReservedBits
  intro w
  refine ⟨?_, decodeCmd_error_iff w⟩
  rw [decodeCmd_error_iff, ← Bool.not_eq_true, legalWord_iff, ne_eq, ne_eq, ne_eq, CmdWord.bits_16_8_eq_zero_iff,
    CmdWord.bits_15_0_eq_zero_iff, CmdWord.bits_16_0_eq_zero_iff]
  change _ ↔ CmdWord.op w = 0b01#2 ∧ _ ∨ CmdWord.op w = 0b10#2 ∧ _ ∨ CmdWord.op w = 0b11#2 ∧ _
  rcases CmdWord.op_cases w with hop | hop | hop | hop <;> simp [hop]

end Sys2Proof

namespace Sys2Proof.Machine

/-- The answer to an illegal word at an idle machine (`60_exceptions.md` R205, row T5). -/
theorem advance_illegal {strict : Bool} {s : State} {w : CmdWord} {rest : List CmdWord} {e : DecodeError}
    (h : s.ready) (hc : s.hostCmds = w :: rest) (hd : decodeCmd w = .error e) :
    advance strict s = .next ({ s with hostCmds := rest }.acceptIllegal w) := by
  obtain ⟨hs, hr, hb, hl⟩ := h
  have hb : s.bench = .idle := by
    unfold State.benchQuiet at hb
    cases hq : s.bench <;> simp [hq] at hb ⊢
  simp only [advance, hr, hs, idleStep, State.lateComplete_eq_none hl, hb, acceptNext, hc, hd]

/-- Settles O21: the decoder rejects the word, and the ready machine answers it. -/
theorem illegalWordAnswered : Obligations.IllegalWordAnswered := by
  unfold Obligations.IllegalWordAnswered
  intro strict s w rest h hc hw
  obtain ⟨e, he⟩ := (decodeCmd_error_iff w).2 hw
  have hidle : s.seq = .idle := h.1
  rw [advance_illegal h hc he, State.acceptIllegal_eq, ← hidle]

end Sys2Proof.Machine
end

section
/-! Proofs of the family `30_encoding.md`: the address byte, the status codes and the address step's verdicts (O6, O8,
O9, O10). -/

namespace Sys2Proof.Machine

/-- The masked OR of `44_master_fsm.md` R186 is the append of `30_encoding.md` R93. -/
theorem addressByte_eq (id sub : Byte) (dir : Direction) :
    addressByte id sub dir = ((id ||| sub) &&& 0xFE#8) ||| (if dir = .read then 0x01#8 else 0x00#8) := by
  apply BitVec.eq_of_getLsbD_eq
  intro k hk
  simp only [addressByte, BitVec.getLsbD_append, BitVec.getLsbD_or, BitVec.getLsbD_and, BitVec.getLsbD_extractLsb']
  cases dir <;> interval_cases k <;> simp [Direction.toBit]

/-- Bit 0 of the address byte is the direction (`30_encoding.md` R93, R94). -/
theorem addressByte_bit_zero (id sub : Byte) (dir : Direction) :
    (addressByte id sub dir).getLsbD 0 = dir.toBit := by
  simp only [addressByte, BitVec.getLsbD_append]
  simp

/-- Settles O6. -/
theorem addressByteLayout : Obligations.AddressByteLayout := by
  unfold Obligations.AddressByteLayout
  refine ⟨fun id sub dir => ⟨BitVec.extractLsb'_append_eq_left, ?_, addressByte_eq id sub dir⟩, by decide, by decide,
    by decide, by decide⟩
  rw [addressByte_bit_zero]
  cases dir <;> rfl

/-- The mask keeps bits 7:3 and clears the rest (`30_encoding.md` R90). -/
theorem maskStatus_eq_append (raw : Byte) : maskStatus raw = raw.extractLsb' 3 5 ++ 0#3 := by
  revert raw; decide

/-- Settles O8: the status is bits 7:3 with three zeros below them, so eight times a five-bit number. -/
theorem statusMask : Obligations.StatusMask := by
  unfold Obligations.StatusMask
  refine ⟨fun _ => rfl, fun raw => ⟨?_, (raw.extractLsb' 3 5).toFin, ?_⟩, fun a b h => ?_⟩
  · rw [maskStatus_eq_append]
    exact BitVec.extractLsb'_append_eq_right
  · rw [maskStatus_eq_append]
    generalize raw.extractLsb' 3 5 = hi
    revert hi; decide
  · rw [maskStatus_eq_append, maskStatus_eq_append, h]

/-- A byte is classified as the first named condition that has its code, or as OTHER when none has (`30_encoding.md`
R92). -/
theorem cond_cases (st : Byte) :
    (∃ c ∈ namedConds, statusCode c = st ∧ cond st = c)
      ∨ ((∀ c ∈ namedConds, statusCode c ≠ st) ∧ cond st = .other st) := by
  unfold cond
  cases hf : namedConds.find? fun c => statusCode c == st with
  | some c => exact .inl ⟨c, List.mem_of_find?_eq_some hf, by simpa using List.find?_some hf, rfl⟩
  | none => exact .inr ⟨by simpa using hf, rfl⟩

/-- Settles O9: a named condition is read back from its code, so the codes are distinct. -/
theorem statusClassification : Obligations.StatusClassification := by
  unfold Obligations.StatusClassification
  refine ⟨fun c hc d hd h => ?_, by decide, cond_cases⟩
  rw [← cond_statusCode hc, h, cond_statusCode hd]

/-- The remaining verdict of the address step (`41_begin_and_retry.md` R135). -/
theorem addrVerdict_abort (strict : Bool) (dir : Direction) (c : Cond) :
    addrVerdict strict dir c = .abort ↔
      isAddrNack strict dir c = false ∧ c ≠ .arbLost ∧ isAddrAck strict dir c = false := by
  cases c <;> cases strict <;> cases dir <;> simp [addrVerdict, isAddrNack, isAddrAck]

/-! `ADDR_NACK` and `ADDR_ACK` at the default setting of `ADDR_ACK_STRICT` (`30_encoding.md` R92). -/

theorem isAddrNack_default (dir : Direction) (c : Cond) :
    isAddrNack false dir c = true ↔ c = .slawNack ∨ c = .slarNack := by
  simp [isAddrNack]

theorem isAddrAck_default (dir : Direction) (c : Cond) :
    isAddrAck false dir c = true ↔ c = .slawAck ∨ c = .slarAck := by
  simp [isAddrAck]

/-- The `B_ADDR` column at the default setting (`60_exceptions.md` R203). -/
theorem addrVerdict_default (dir : Direction) (c : Cond) :
    addrVerdict false dir c =
      if c = .slawAck ∨ c = .slarAck then .acked
      else if c = .slawNack ∨ c = .slarNack ∨ c = .arbLost then .retry
      else .abort := by
  split
  · next hack => exact (addrVerdict_acked ..).2 ((isAddrAck_default dir c).2 hack)
  · next hack =>
    split
    · next hretry =>
      rw [addrVerdict_retry, isAddrNack_default, or_assoc]
      exact hretry
    · next hretry =>
      rw [addrVerdict_abort, ← Bool.not_eq_true, ← Bool.not_eq_true, isAddrNack_default, isAddrAck_default]
      tauto

/-- The strict setting changes the cells of the other direction, and no others (`30_encoding.md` R92). -/
theorem addrVerdict_strict (dir : Direction) (c : Cond) :
    addrVerdict true dir c =
      if dir = .write ∧ (c = .slarAck ∨ c = .slarNack) ∨ dir = .read ∧ (c = .slawAck ∨ c = .slawNack) then .abort
      else addrVerdict false dir c := by
  cases dir <;> cases c <;> rfl

theorem directionOf_addressByte (id sub : Byte) (dir : Direction) : directionOf (addressByte id sub dir) = dir := by
  rw [directionOf, addressByte_bit_zero, Direction.ofBit_toBit]

/-- Settles O10: the direction is read back from bit 0. -/
theorem addressStepDispatch : Obligations.AddressStepDispatch := by
  unfold Obligations.AddressStepDispatch
  exact ⟨addrVerdict_default, addrVerdict_strict, directionOf_addressByte⟩

end Sys2Proof.Machine
end

section
/-! Proofs of the family `30_encoding.md`: the direct phase calls, the accepts of BEGIN and READ, and the completed
address phase (O11 to O14, O16, O18, O23). The patterns as bytes are those of `ctrlAfterWrite_start` and its like. -/

namespace Sys2Proof.Machine

/-- A micro-operation that is waited for, in every state (`40_bus_phase_controller.md` R110 to R113). -/
theorem exec_toInstr (s : State) {p : Phase} (hp : p ≠ .stop) :
    exec p.toInstr s = .next
      { s with
        bcCtrl := ctrlAfterWrite s.bcCtrl (pat p)
        hist := s.hist ++ [.req p s.bcData]
        accesses := s.accesses ++ [.wr .ctrl (pat p)]
        bench := .holding } := by
  rw [exec_phase, State.accepted_toInstr s hp]

/-- Settles O11. -/
theorem phStartCompletes : Obligations.PhStartCompletes := by
  unfold Obligations.PhStartCompletes
  intro s
  rw [← ctrlAfterWrite_start]
  exact exec_toInstr s (p := .start) nofun

/-- Settles O12. -/
theorem phDataNoackCompletes : Obligations.PhDataNoackCompletes := by
  unfold Obligations.PhDataNoackCompletes
  intro s
  rw [← ctrlAfterWrite_dataNoack]
  exact exec_toInstr s (p := .dataNoack) nofun

/-- Settles O13. -/
theorem phDataAckCompletes : Obligations.PhDataAckCompletes := by
  unfold Obligations.PhDataAckCompletes
  intro s
  rw [← ctrlAfterWrite_dataAck]
  exact exec_toInstr s (p := .dataAck) nofun

/-- Settles O14: the request of STOP, with no hold. -/
theorem phStopCompletes : Obligations.PhStopCompletes := by
  unfold Obligations.PhStopCompletes
  refine ⟨fun s => ?_, fun _ => rfl⟩
  have hexec : exec .phStop s = .next { s.requestPhase .stop with bench := .idle } := exec_phase .stop s
  rw [hexec, State.requestPhase_stop, ctrlAfterWrite_stop]
  rfl

/-- Settles O16: an idle CORE accepts, and the gate is open for a cleared counter. -/
theorem beginAccepts : Obligations.BeginAccepts := by
  unfold Obligations.BeginAccepts
  intro id sub dir s hs
  rw [exec_idle _ hs, State.accepted, State.acceptBegin_eq, ctrlAfterWrite_start, addressByte_eq]
  rfl

/-- Settles O18: the phase of a READ is DATA_ACK or DATA_NOACK by its operand. -/
theorem readAccepts : Obligations.ReadAccepts := by
  unfold Obligations.ReadAccepts
  intro s hs
  constructor
  · rw [exec_idle _ hs, State.accepted, State.acceptRead_eq, ← ctrlAfterWrite_dataAck]
    rfl
  · rw [exec_idle _ hs, State.accepted, State.acceptRead_eq, ← ctrlAfterWrite_dataNoack]
    rfl

/-! The completed address phase by its verdict (`41_begin_and_retry.md` R135). -/

section
variable {strict : Bool} {s : State}

theorem State.completeAddress_of_retry
    (h : addrVerdict strict (directionOf s.ab) (cond s.status) = .retry) :
    s.completeAddress strict = s.takeStatus.attemptGate := by
  simp only [State.completeAddress, h]

theorem State.completeAddress_of_abort
    (h : addrVerdict strict (directionOf s.ab) (cond s.status) = .abort) :
    s.completeAddress strict = s.takeStatus.raiseFail .beginCmd .addrSeq := by
  simp only [State.completeAddress, h]

theorem State.completeAddress_of_acked
    (h : addrVerdict strict (directionOf s.ab) (cond s.status) = .acked) :
    s.completeAddress strict = s.takeStatus.returnOk .beginCmd := by
  simp only [State.completeAddress, h]

end

/-- Settles O23, by the verdict of the address step and the two sides of the attempt gate. -/
theorem addressCompleted : Obligations.AddressCompleted := by
  unfold Obligations.AddressCompleted
  intro strict s hr hs hf
  rw [advance_address hr hs hf]
  refine ⟨fun hc hlt => ?_, fun hc hge => ?_, fun hn hl ha => ?_, fun ha => ?_⟩
  · have hgate := State.attemptGate_below (s := s.takeStatus) hlt
    rw [State.completeAddress_of_retry ((addrVerdict_retry ..).2 hc), hgate, State.takeStatus_eq, ctrlAfterWrite_start,
      List.append_assoc]
    rfl
  · have hgate := State.attemptGate_exhausted (s := s.takeStatus) hge
    rw [State.completeAddress_of_retry ((addrVerdict_retry ..).2 hc), hgate, State.takeStatus_eq, State.raiseFail_eq]
  · rw [State.completeAddress_of_abort ((addrVerdict_abort ..).2 ⟨hn, hl, ha⟩), State.takeStatus_eq, State.raiseFail_eq]
  · rw [State.completeAddress_of_acked ((addrVerdict_acked ..).2 ha), State.takeStatus_eq, State.returnOk_eq]

end Sys2Proof.Machine
end

section
/-! Proofs of the family `40_bus_phase_controller.md`: the completion of a READ and the byte it delivers (O26). -/

namespace Sys2Proof.Machine

/-! The completed phase of a READ by its status (`42_byte_transfer_and_end.md` R152). -/

section
variable {s : State}

/-- BC.DATA is read after the wanted status, and only then (`42_byte_transfer_and_end.md` R153). -/
theorem State.completeRead_of_wanted (h : cond s.status = wantedCond s.ackreq) :
    s.completeRead =
      { s with
        seq := .idle
        result := 0x00#8
        rdata := s.bcData
        hist := s.hist ++ [.rsp .readCmd 0x00#8 s.bcData]
        accesses := s.accesses ++ [.rd .ctrl s.bcCtrl, .rd .status s.bcStatus, .rd .data s.bcData] } := by
  rw [State.completeRead, if_pos h, State.returnOk_eq, State.takeData, State.takeStatus_eq]
  simp [State.memRead, State.bc]

theorem State.completeRead_of_unwanted (h : cond s.status ≠ wantedCond s.ackreq) :
    s.completeRead =
      { s with
        seq := .idle
        result := 0xFF#8
        hist := s.hist ++ [.fail .dataRead, .rsp .readCmd 0xFF#8 s.rdata]
        accesses := s.accesses ++ [.rd .ctrl s.bcCtrl, .rd .status s.bcStatus] } := by
  rw [State.completeRead, if_neg h, State.raiseFail_eq, State.takeStatus_eq]

end

/-- A waiting READ with its phase completed by the answer `x` (`40_bus_phase_controller.md` R118). -/
def State.answeredRead (s : State) (x : Answer) (rest : List Answer) : State :=
  { s with
    bcStatus := x.s
    bcData := x.d
    bcCtrl := ctrlCompleted s.bcCtrl
    answers := rest
    hist := s.hist ++ [.cpl (readPhase s.ackreq) x.s x.d] }

/-- A waiting READ that is answered ends in two steps: the bus controller's, then the CORE's. -/
theorem advanceN_two_read {strict : Bool} {s : State} {x : Answer} {rest : List Answer} (hr : s.resetIn = none)
    (hs : s.seq = .rData) (hf : s.intFlag = false) (hl : lastPhase s.bcCtrl = some (readPhase s.ackreq))
    (ha : s.answers = x :: rest) : advanceN strict 2 s = .next (s.answeredRead x rest).completeRead := by
  have hcpl : advance strict s = .next (s.answeredRead x rest) :=
    advance_completes hr (.inl ⟨by simp [hs], hf⟩) hl (readPhase_ne_stop _) ha
  have hread : advance strict (s.answeredRead x rest) = .next (s.answeredRead x rest).completeRead :=
    advance_read hr hs (intOf_ctrlCompleted _)
  exact (advanceN_succ_of_next hcpl).trans (advanceN_succ_of_next hread)

/-- Settles O26: the completing step finds the answer's bytes in BC.STATUS and BC.DATA, and reads the second only on
the wanted status. -/
theorem readDeliversAnswerByte : Obligations.ReadDeliversAnswerByte := by
  unfold Obligations.ReadDeliversAnswerByte
  intro strict s x rest hr hs hf hl ha
  have hrun := advanceN_two_read (strict := strict) hr hs hf hl ha
  by_cases hc : cond (s.answeredRead x rest).status = wantedCond (s.answeredRead x rest).ackreq
  · rw [State.completeRead_of_wanted hc] at hrun
    exact ⟨_, hrun, rfl, rfl, rfl, fun _ => ⟨rfl, rfl, rfl⟩, fun hn => absurd hc hn⟩
  · rw [State.completeRead_of_unwanted hc] at hrun
    exact ⟨_, hrun, rfl, rfl, rfl, fun h => absurd h hc, fun _ => ⟨rfl, rfl, rfl⟩⟩

end Sys2Proof.Machine
end

section
/-! Proofs of the family `40_bus_phase_controller.md`: END, the STOP request, and the hang (O19, O29, O30, O41). -/

namespace Sys2Proof.Machine

/-- Settles O19: an idle CORE accepts END and stays idle. -/
theorem endCompletes : Obligations.EndCompletes := by
  unfold Obligations.EndCompletes
  intro s hs
  rw [exec_idle _ hs, State.accepted, State.acceptEnd_eq, ctrlAfterWrite_stop, ← hs]
  rfl

/-- When the bus controller has no step (`40_bus_phase_controller.md` R118, R119). -/
theorem State.busComplete_eq_none {s : State} :
    s.busComplete = none ↔ outstandingPhase s.bcCtrl = none ∨ s.answers = [] := by
  unfold State.busComplete
  cases outstandingPhase s.bcCtrl <;> cases s.answers <;> simp

/-- A STOP is not waited for (`40_bus_phase_controller.md` R119). -/
theorem outstandingPhase_of_stop {c : Byte} (h : lastPhase c = some .stop) : outstandingPhase c = none := by
  refine Option.eq_none_iff_forall_ne_some.2 fun p hp => ?_
  obtain ⟨-, hl, hne⟩ := (outstandingPhase_eq_some c p).1 hp
  exact hne (Option.some.inj (hl.symm.trans h))

/-- Settles O29. -/
theorem noCompletionAfterStop : Obligations.NoCompletionAfterStop := by
  unfold Obligations.NoCompletionAfterStop
  refine ⟨fun s h => State.busComplete_eq_none.2 (.inl (outstandingPhase_of_stop h)), fun s => ?_⟩
  rw [State.requestPhase_stop]
  exact ⟨intOf_ctrlAfterWrite_pat .stop s.bcCtrl, lastPhase_ctrlAfterWrite_pat .stop s.bcCtrl⟩

/-- Settles O30: a waiting CORE leaves the step to the bus controller, which has none without an answer. -/
theorem hangIsStuckUntilReset : Obligations.HangIsStuckUntilReset := by
  unfold Obligations.HangIsStuckUntilReset
  intro strict s ⟨⟨hs, hf⟩, ha⟩
  refine ⟨fun hr => ?_, fun u hr => ⟨s.takeReset u, advance_reset hr, rfl⟩⟩
  rw [advance_bus hr hs hf, busStep, State.busComplete_eq_none.2 (.inr ha)]

/-- The step from `s` to `t` records the event `e` (`44_master_fsm.md` R191). -/
def State.Records (s t : State) (e : Event) : Prop := ∃ new, t.hist = s.hist ++ new ∧ e ∈ new

/-- The events a step records are those its effect lists. -/
theorem State.Records.mem {s t : State} {e : Event} {es : List Event} (h : s.Records t e)
    (ht : t.hist = s.hist ++ es) : e ∈ es := by
  obtain ⟨new, hnew, he⟩ := h
  rwa [List.append_cancel_left (ht.symm.trans hnew)]

/-- Of the host commands END alone requests a STOP as it is accepted (`42_byte_transfer_and_end.md` R156). -/
theorem State.Records.endTransaction_of_stop {s : State} {i : Instr} {d : Byte} (hi : i.isHostCommand = true)
    (h : s.Records (s.accepted i) (.req .stop d)) : i = .endTransaction := by
  obtain ⟨id, sub, dir, rfl⟩ | ⟨v, rfl⟩ | ⟨a, rfl⟩ | rfl := hostCommand_cases hi
  · exact absurd (h.mem (congrArg State.hist (s.acceptBegin_eq id sub dir))) (by simp)
  · exact absurd (h.mem (congrArg State.hist (s.acceptWrite_eq v))) (by simp)
  · exact absurd (h.mem (congrArg State.hist (s.acceptRead_eq a))) (by simp [(readPhase_ne_stop a).symm])
  · rfl

/-- One word decodes to END (`30_encoding.md` R82, R98). -/
theorem eq_of_decodeCmd_end {w : CmdWord} (h : decodeCmd w = .ok .endTransaction) : w = 0x60000#19 := by
  have hw : Code.cmd endWord = .cmd w := encode_of_decodeCmd h
  exact (Code.cmd.inj hw).symm

theorem State.benchQuiet_of_ne {s : State} (hp : ∀ c, s.bench ≠ .presented c) (hh : s.bench ≠ .holding) :
    s.benchQuiet = true := by
  unfold State.benchQuiet
  cases hb : s.bench with
  | idle => rfl
  | presented c => exact absurd hb (hp c)
  | holding => exact absurd hb hh

/-- Settles O41: of the effects of a step only a driven PH_STOP and an accepted END list a STOP request. -/
theorem onlyEndRequestsStop : Obligations.OnlyEndRequestsStop := by
  unfold Obligations.OnlyEndRequestsStop
  intro strict s t d ha hstop
  change s.Records t (.req .stop d) at hstop
  cases advance_effect ha with
  | reset | benchReturn => exact absurd (hstop.mem (List.append_nil _).symm) (by simp)
  | bus | late | retry | fail | issue | ok | readOk | illegal => exact absurd (hstop.mem rfl) (by simp)
  | benchWait p c hr hs hb hp => exact absurd (hstop.mem rfl) (by simp [hp.symm])
  | benchStop hr hs hb => exact ⟨hr, hs, .inl hb⟩
  | accept w rest i t hr hs hp hh hc hd hi ht =>
    subst ht
    have hend : i = .endTransaction := State.Records.endTransaction_of_stop (s := { s with hostCmds := rest }) hi hstop
    subst hend
    exact ⟨hr, hs, .inr ⟨State.benchQuiet_of_ne hp hh, rest, eq_of_decodeCmd_end hd ▸ hc⟩⟩

end Sys2Proof.Machine
end

section
/-! Proofs of the family `41_begin_and_retry.md`: START completed, and the exhausted budget (O22, O27). -/

namespace Sys2Proof.Machine

/-! The completed START by its status (`41_begin_and_retry.md` R133). -/

section
variable {s : State}

theorem State.completeStart_of_arbLost (h : cond s.status = .arbLost) :
    s.completeStart = s.takeStatus.attemptGate := if_pos h

theorem State.completeStart_of_unexpected (hl : cond s.status ≠ .arbLost)
    (hs : cond s.status ≠ .startTx ∧ cond s.status ≠ .rstartTx) :
    s.completeStart = s.takeStatus.raiseFail .beginCmd .startSeq := by
  rw [State.completeStart, if_neg hl, if_pos hs]

/-- A START status sets the ghost bit, and the address phase is issued in the same step. -/
theorem State.completeStart_of_started (h : cond s.status = .startTx ∨ cond s.status = .rstartTx) :
    s.completeStart = { s.takeStatus with held := true }.issueAddress := by
  have hl : cond s.status ≠ .arbLost := by rcases h with h | h <;> simp [h]
  have hs : ¬(cond s.status ≠ .startTx ∧ cond s.status ≠ .rstartTx) := by tauto
  rw [State.completeStart, if_neg hl, if_neg hs, noteStart_eq, if_pos h]

end

/-- Settles O22, by the status of the completed START and the two sides of the attempt gate. -/
theorem startCompleted : Obligations.StartCompleted := by
  unfold Obligations.StartCompleted
  intro strict s hr hs hf
  rw [advance_start hr hs hf]
  refine ⟨fun hc hlt => ?_, fun hc hge => ?_, fun hl h1 h2 => ?_, fun hc => ?_⟩
  · have hgate := State.attemptGate_below (s := s.takeStatus) hlt
    rw [State.completeStart_of_arbLost hc, hgate, State.takeStatus_eq, ctrlAfterWrite_start, List.append_assoc, ← hs]
    rfl
  · have hgate := State.attemptGate_exhausted (s := s.takeStatus) hge
    rw [State.completeStart_of_arbLost hc, hgate, State.takeStatus_eq, State.raiseFail_eq]
  · rw [State.completeStart_of_unexpected hl ⟨h1, h2⟩, State.takeStatus_eq, State.raiseFail_eq]
  · rw [State.completeStart_of_started hc, State.issueAddress_eq, State.takeStatus_eq, ctrlAfterWrite_dataNoack,
      List.append_assoc]
    rfl

/-- No accept records a failure: END succeeds at once, and the other host commands wait for a phase. -/
theorem State.Records.not_fail_accepted {s : State} {i : Instr} (hi : i.isHostCommand = true) (c : Cause) :
    ¬s.Records (s.accepted i) (.fail c) := by
  intro h
  obtain ⟨id, sub, dir, rfl⟩ | ⟨v, rfl⟩ | ⟨a, rfl⟩ | rfl := hostCommand_cases hi
  · exact absurd (h.mem (congrArg State.hist (s.acceptBegin_eq id sub dir))) (by simp)
  · exact absurd (h.mem (congrArg State.hist (s.acceptWrite_eq v))) (by simp)
  · exact absurd (h.mem (congrArg State.hist (s.acceptRead_eq a))) (by simp)
  · exact absurd (h.mem (congrArg State.hist s.acceptEnd_eq)) (by simp)

/-- Settles O27: of the effects of a step only the failed retry of a BEGIN lists the label BUDGET. -/
theorem budgetExhausted : Obligations.BudgetExhausted := by
  unfold Obligations.BudgetExhausted
  refine ⟨fun s h => by rw [State.attemptGate_exhausted h, State.raiseFail_eq], ?_⟩
  intro strict s t hr ha hbudget
  change s.Records t (.fail .budget) at hbudget
  cases advance_effect ha with
  | reset u hu => simp [hr] at hu
  | benchReturn => exact absurd (hbudget.mem (List.append_nil _).symm) (by simp)
  | bus | late | retry | issue | ok | readOk | illegal | benchWait | benchStop =>
    exact absurd (hbudget.mem rfl) (by simp)
  | fail k c _ hf hk =>
    have hc : c = .budget := by simpa [eq_comm] using hbudget.mem rfl
    subst hc
    simp only [reduceCtorEq, and_false, true_and, false_or, or_false] at hk
    obtain ⟨hs, -, hc, hge⟩ | ⟨hs, -, hc, hge⟩ := hk
    · exact ⟨hge, hf, .inl ⟨hs, hc⟩⟩
    · exact ⟨hge, hf, .inr ⟨hs, hc⟩⟩
  | accept w rest i t _ _ _ _ _ _ hi ht =>
    subst ht
    exact absurd hbudget (State.Records.not_fail_accepted (s := { s with hostCmds := rest }) hi .budget)

end Sys2Proof.Machine
end

section
/-! Proofs of the family `41_begin_and_retry.md`: one attempt of BEGIN, and a pass of the loop as one attempt (R130 to
R135). -/

namespace Sys2Proof.Machine

/-- The state once the START of an attempt has been answered by `x` (`41_begin_and_retry.md` R132). -/
def State.afterStart (s : State) (x : Answer) (rest : List Answer) : State :=
  { s with retry := s.retry + 1#6 }.driven .start x rest

/-- The state with the address byte loaded, after a START status (`41_begin_and_retry.md` R133 case c, R134). -/
def State.addressLoaded (s : State) : State := { s with held := true }.writeData s.ab

/-- The state once the address phase has been answered by `y` (`41_begin_and_retry.md` R134). -/
def State.afterAddress (s : State) (y : Answer) (rest : List Answer) : State :=
  s.addressLoaded.driven .dataNoack y rest

/-- How an attempt that was answered ends. -/
inductive AttemptEnd where
  /-- In a transient status: the attempt gate comes next (`41_begin_and_retry.md` R133 case a, R135 case a). -/
  | retry
  /-- In a terminal status (`41_begin_and_retry.md` R133 case b, R135 case b). -/
  | fail (c : Cause)
  /-- Acknowledged (`41_begin_and_retry.md` R135 case c). -/
  | ok

/-- The end of an attempt that reached the address step (`41_begin_and_retry.md` R135). -/
def AttemptEnd.ofVerdict : AddrVerdict → AttemptEnd
  | .retry => .retry
  | .abort => .fail .addrSeq
  | .acked => .ok

/-- One attempt of BEGIN past the open gate: how it ends and the state it leaves, the response not yet given. `none` is
the hang. -/
def attempt (strict : Bool) (s : State) : Option (AttemptEnd × State) :=
  match s.answers with
  | [] => none
  | x :: xs =>
    if cond (maskStatus x.s) = .arbLost then some (.retry, s.afterStart x xs)
    else if cond (maskStatus x.s) ≠ .startTx ∧ cond (maskStatus x.s) ≠ .rstartTx then
      some (.fail .startSeq, s.afterStart x xs)
    else
      match xs with
      | [] => none
      | y :: ys =>
        some (.ofVerdict (addrVerdict strict (directionOf s.ab) (cond (maskStatus y.s))),
          (s.afterStart x xs).afterAddress y ys)

/-! An attempt by the answers it finds. -/

section
variable {strict : Bool} {s : State} {x y : Answer} {xs ys : List Answer}

theorem attempt_of_nil (ha : s.answers = []) : attempt strict s = none := by
  simp only [attempt, ha]

theorem attempt_of_arbLost (ha : s.answers = x :: xs) (hc : cond (maskStatus x.s) = .arbLost) :
    attempt strict s = some (.retry, s.afterStart x xs) := by
  simp only [attempt, ha, if_pos hc]

theorem attempt_of_unexpected (ha : s.answers = x :: xs) (hl : cond (maskStatus x.s) ≠ .arbLost)
    (hc : cond (maskStatus x.s) ≠ .startTx ∧ cond (maskStatus x.s) ≠ .rstartTx) :
    attempt strict s = some (.fail .startSeq, s.afterStart x xs) := by
  simp only [attempt, ha, if_neg hl, if_pos hc]

/-- After a START status the attempt waits for the address step's answer. -/
theorem attempt_of_unanswered_address (ha : s.answers = [x])
    (hc : cond (maskStatus x.s) = .startTx ∨ cond (maskStatus x.s) = .rstartTx) : attempt strict s = none := by
  rcases hc with hc | hc <;> simp [attempt, ha, hc]

/-- With that answer it ends by the verdict of the address step. -/
theorem attempt_of_address (ha : s.answers = x :: y :: ys)
    (hc : cond (maskStatus x.s) = .startTx ∨ cond (maskStatus x.s) = .rstartTx) :
    attempt strict s =
      some (.ofVerdict (addrVerdict strict (directionOf s.ab) (cond (maskStatus y.s))),
        (s.afterStart x (y :: ys)).afterAddress y ys) := by
  rcases hc with hc | hc <;> simp [attempt, ha, hc]

end

/-- The loop of BEGIN goes on after an attempt, or answers. -/
def AttemptEnd.continueLoop (strict : Bool) (n : Nat) (u : State) : AttemptEnd → Option State
  | .retry => beginLoop strict n u
  | .fail c => some (u.raiseFail .beginCmd c)
  | .ok => some (u.returnOk .beginCmd)

/-- A pass of the loop with the gate open is one attempt (`41_begin_and_retry.md` R130). -/
theorem beginLoop_succ {strict : Bool} {s : State} (n : Nat) (h : s.retry.toNat < 50) :
    beginLoop strict (n + 1) s = (attempt strict s).bind fun r => r.1.continueLoop strict n r.2 := by
  rw [beginLoop, if_neg (by simp only [Config.maxAttempts]; omega), drivePhase_eq .start _ nofun, attempt]
  cases s.answers with
  | nil => rfl
  | cons x xs =>
    simp only
    split
    · rfl
    split
    · rfl
    rw [drivePhase_eq .dataNoack _ nofun]
    cases xs with
    | nil => rfl
    | cons y ys =>
      simp only [State.writeData_answers, State.driven, State.writeData_ab]
      cases addrVerdict strict (directionOf s.ab) (cond (maskStatus y.s)) <;> rfl

/-- With the gate closed the loop fails (`41_begin_and_retry.md` R137). -/
theorem beginLoop_exhausted {strict : Bool} {s : State} (n : Nat) (h : 50 ≤ s.retry.toNat) :
    beginLoop strict n s = some (s.raiseFail .beginCmd .budget) := by
  cases n with
  | zero => rfl
  | succ n => exact if_pos h

/-- An attempt that hangs has found fewer than two answers (`44_master_fsm.md` R196). -/
theorem attempt_eq_none {strict : Bool} {s : State} (h : attempt strict s = none) : s.answers.length < 2 := by
  unfold attempt at h
  cases ha : s.answers with
  | nil => simp
  | cons x xs =>
    cases xs with
    | nil => simp
    | cons y ys => simp only [ha] at h; split_ifs at h

end Sys2Proof.Machine
end

section
/-! Proofs of the family `41_begin_and_retry.md`: what answered attempts leave, and the loop as a sequence of them
(R132 to R137). -/

namespace Sys2Proof.Machine

/-- `t` comes after `k` answered attempts of a BEGIN from `s`, none of which has been responded to: `new` are their
events (`41_begin_and_retry.md` R132 to R135). -/
structure State.Attempted (s t : State) (k : Nat) (new : List Event) : Prop where
  retry : t.retry.toNat = s.retry.toNat + k
  ab : t.ab = s.ab
  rdata : t.rdata = s.rdata
  hostCmds : t.hostCmds = s.hostCmds
  resetIn : t.resetIn = s.resetIn
  hist : t.hist = s.hist ++ new
  starts : startRequests new = k
  dataNoacks : dataNoackRequests new ≤ k
  stops : stopRequests new = 0
  silent : responses new = []
  consumed : s.answers.length = t.answers.length + (k + dataNoackRequests new)

theorem State.Attempted.refl (s : State) : s.Attempted s 0 [] where
  retry := rfl
  ab := rfl
  rdata := rfl
  hostCmds := rfl
  resetIn := rfl
  hist := (List.append_nil _).symm
  starts := rfl
  dataNoacks := le_rfl
  stops := rfl
  silent := rfl
  consumed := rfl

theorem State.Attempted.trans {s t u : State} {j k : Nat} {a b : List Event} (h : s.Attempted t j a)
    (h' : t.Attempted u k b) : s.Attempted u (j + k) (a ++ b) where
  retry := by rw [h'.retry, h.retry, Nat.add_assoc]
  ab := h'.ab.trans h.ab
  rdata := h'.rdata.trans h.rdata
  hostCmds := h'.hostCmds.trans h.hostCmds
  resetIn := h'.resetIn.trans h.resetIn
  hist := by rw [h'.hist, h.hist, List.append_assoc]
  starts := by rw [startRequests_append, h.starts, h'.starts]
  dataNoacks := by rw [dataNoackRequests_append]; exact Nat.add_le_add h.dataNoacks h'.dataNoacks
  stops := by rw [stopRequests_append, h.stops, h'.stops]
  silent := by rw [responses_append, h.silent, h'.silent]; rfl
  consumed := by rw [dataNoackRequests_append, h.consumed, h'.consumed]; omega

/-- An attempt that ends at the START step has requested START alone. -/
theorem State.attempted_afterStart {s : State} {x : Answer} {xs : List Answer} (hlt : s.retry.toNat < 50)
    (ha : s.answers = x :: xs) :
    s.Attempted (s.afterStart x xs) 1 [.req .start s.bcData, .cpl .start x.s x.d] where
  retry := retry_succ_toNat hlt
  ab := rfl
  rdata := rfl
  hostCmds := rfl
  resetIn := rfl
  hist := rfl
  starts := rfl
  dataNoacks := Nat.zero_le 1
  stops := rfl
  silent := rfl
  consumed := by rw [ha]; rfl

/-- An attempt that ends at the address step has requested START, then DATA_NOACK. -/
theorem State.attempted_afterAddress {s : State} {x y : Answer} {ys : List Answer} (hlt : s.retry.toNat < 50)
    (ha : s.answers = x :: y :: ys) :
    s.Attempted ((s.afterStart x (y :: ys)).afterAddress y ys) 1
      [.req .start s.bcData, .cpl .start x.s x.d, .req .dataNoack s.ab, .cpl .dataNoack y.s y.d] where
  retry := retry_succ_toNat hlt
  ab := rfl
  rdata := rfl
  hostCmds := rfl
  resetIn := rfl
  hist := List.append_assoc _ _ _
  starts := rfl
  dataNoacks := le_rfl
  stops := rfl
  silent := rfl
  consumed := by rw [ha]; rfl

/-- What one attempt leaves, however it ends; with an acknowledged address the bus is held (`10_state.md` R33). -/
theorem attempt_effect {strict : Bool} {s u : State} {e : AttemptEnd} (hlt : s.retry.toNat < 50)
    (h : attempt strict s = some (e, u)) :
    (∃ new, s.Attempted u 1 new) ∧ (e = .ok → u.held = true) := by
  unfold attempt at h
  cases ha : s.answers with
  | nil => simp [ha] at h
  | cons x xs =>
    simp only [ha] at h
    split_ifs at h
    · cases h
      exact ⟨⟨_, State.attempted_afterStart hlt ha⟩, nofun⟩
    · cases h
      exact ⟨⟨_, State.attempted_afterStart hlt ha⟩, nofun⟩
    · cases xs with
      | nil => cases h
      | cons y ys =>
        cases h
        exact ⟨⟨_, State.attempted_afterAddress hlt ha⟩, fun _ => rfl⟩

/-- `t` is `s` with the response to its BEGIN given, of either kind (`41_begin_and_retry.md` R136). -/
def State.Responded (s t : State) : Prop := t = s.returnOk .beginCmd ∨ ∃ c, t = s.raiseFail .beginCmd c

/-- A response requests nothing and leaves the counter and the answers. -/
theorem State.Responded.effect {s t : State} (h : s.Responded t) :
    t.retry = s.retry ∧ t.answers = s.answers ∧ ∃ tail, t.hist = s.hist ++ tail
      ∧ startRequests tail = 0 ∧ dataNoackRequests tail = 0 ∧ stopRequests tail = 0 := by
  obtain rfl | ⟨c, rfl⟩ := h
  · exact ⟨rfl, rfl, _, s.returnOk_hist _, rfl, rfl, rfl⟩
  · exact ⟨rfl, rfl, _, s.raiseFail_hist _ c, rfl, rfl, rfl⟩

/-- The loop answers after some attempts, at least one where the gate is open, with a failure or a success. -/
theorem beginLoop_effect {strict : Bool} {t : State} {n : Nat} {s : State} (hle : s.retry.toNat ≤ 50)
    (h : beginLoop strict n s = some t) :
    ∃ u k new, s.Attempted u k new ∧ u.retry.toNat ≤ 50 ∧ (n = 0 ∨ s.retry.toNat = 50 ∨ 1 ≤ k)
      ∧ u.Responded t := by
  induction n generalizing s with
  | zero =>
    cases h
    exact ⟨s, 0, [], .refl s, hle, .inl rfl, .inr ⟨_, rfl⟩⟩
  | succ n ih =>
    by_cases hlt : s.retry.toNat < 50
    · rw [beginLoop_succ n hlt, Option.bind_eq_some_iff] at h
      obtain ⟨⟨e, u⟩, hatt, hend⟩ := h
      obtain ⟨⟨new, hu⟩, -⟩ := attempt_effect hlt hatt
      have hule : u.retry.toNat ≤ 50 := by rw [hu.retry]; omega
      cases e with
      | retry =>
        obtain ⟨v, k, more, hv, hvle, -, ht⟩ := ih hule hend
        exact ⟨v, 1 + k, new ++ more, hu.trans hv, hvle, by omega, ht⟩
      | fail c =>
        cases hend
        exact ⟨u, 1, new, hu, hule, by omega, .inr ⟨c, rfl⟩⟩
      | ok =>
        cases hend
        exact ⟨u, 1, new, hu, hule, by omega, .inl rfl⟩
    · rw [beginLoop_exhausted _ (by omega)] at h
      cases h
      exact ⟨s, 0, [], .refl s, hle, by omega, .inr ⟨_, rfl⟩⟩

/-- Two answers for each pass are enough for the loop to end (`44_master_fsm.md` R196). -/
theorem beginLoop_isSome {strict : Bool} {n : Nat} {s : State} (h : 2 * n ≤ s.answers.length) :
    ∃ t, beginLoop strict n s = some t := by
  induction n generalizing s with
  | zero => exact ⟨_, rfl⟩
  | succ n ih =>
    by_cases hlt : s.retry.toNat < 50
    · rw [beginLoop_succ n hlt]
      cases hatt : attempt strict s with
      | none => exact absurd (attempt_eq_none hatt) (by omega)
      | some r =>
        obtain ⟨e, u⟩ := r
        obtain ⟨⟨new, hu⟩, -⟩ := attempt_effect hlt hatt
        cases e with
        | retry =>
          have hrest : 2 * n ≤ u.answers.length := by have := hu.consumed; have := hu.dataNoacks; omega
          exact ih hrest
        | fail c => exact ⟨_, rfl⟩
        | ok => exact ⟨_, rfl⟩
    · exact ⟨_, beginLoop_exhausted _ (by omega)⟩

end Sys2Proof.Machine
end

section
/-! Proofs of the family `41_begin_and_retry.md`: the whole BEGIN, its counts and no STOP (O42, O55). -/

namespace Sys2Proof.Machine

/-- The state in which an accepted BEGIN enters its loop (`41_begin_and_retry.md` R131). -/
def State.beginEntered (s : State) (id sub : Byte) (dir : Direction) : State :=
  { s.record (.acc (.beginTransaction id sub dir)) with ab := addressByte id sub dir, retry := 0#6 }

/-- The history of a BEGIN that has made its attempts and then requested nothing more. -/
theorem State.Attempted.wholeHistory {s t u : State} {id sub : Byte} {dir : Direction} {k : Nat}
    {new tail : List Event} (hu : (s.beginEntered id sub dir).Attempted u k new) (ht : t.hist = u.hist ++ tail)
    (hstart : startRequests tail = 0) (hdata : dataNoackRequests tail = 0) (hstop : stopRequests tail = 0) :
    ∃ all, t.hist = s.hist ++ all ∧ startRequests all = k ∧ dataNoackRequests all = dataNoackRequests new
      ∧ stopRequests all = 0 ∧ responses all = responses tail ∧ ∀ e ∈ tail, e ∈ all := by
  refine ⟨[.acc (.beginTransaction id sub dir)] ++ (new ++ tail), ?_, ?_, ?_, ?_, ?_, fun e he => ?_⟩
  · rw [ht, hu.hist, List.append_assoc]
    exact List.append_assoc _ _ _
  · rw [startRequests_append, startRequests_append, hu.starts, hstart]
    exact Nat.zero_add k
  · rw [dataNoackRequests_append, dataNoackRequests_append, hdata]
    exact Nat.zero_add _
  · rw [stopRequests_append, stopRequests_append, hu.stops, hstop]
    rfl
  · rw [responses_append, responses_append, hu.silent]
    rfl
  · exact List.mem_append_right _ (List.mem_append_right _ he)

/-- The counter of a BEGIN says its attempts: it was cleared at the accept (`41_begin_and_retry.md` R131). -/
theorem State.Attempted.wholeRetry {s u : State} {id sub : Byte} {dir : Direction} {k : Nat} {new : List Event}
    (hu : (s.beginEntered id sub dir).Attempted u k new) : u.retry.toNat = k :=
  hu.retry.trans (Nat.zero_add k)

/-- What a BEGIN that ends has requested and consumed (`41_begin_and_retry.md` R140 to R142). -/
theorem beginWhole_effect {strict : Bool} {id sub : Byte} {dir : Direction} {s t : State}
    (h : whole strict (.beginTransaction id sub dir) s = some t) :
    ∃ new, t.hist = s.hist ++ new
      ∧ s.answers.length = t.answers.length + (startRequests new + dataNoackRequests new)
      ∧ startRequests new = t.retry.toNat ∧ 1 ≤ startRequests new ∧ startRequests new ≤ 50
      ∧ dataNoackRequests new ≤ startRequests new ∧ stopRequests new = 0 := by
  obtain ⟨u, k, new, hu, hle, hk, ht⟩ :=
    beginLoop_effect (n := 50) (s := s.beginEntered id sub dir) (Nat.zero_le 50) h
  obtain ⟨hretry, hans, tail, hhist, hstart, hdata, hstop⟩ := ht.effect
  obtain ⟨all, hall, hstarts, hdatas, hstops, -⟩ := hu.wholeHistory hhist hstart hdata hstop
  have hzero : (s.beginEntered id sub dir).retry.toNat = 0 := rfl
  have hcount := hu.wholeRetry
  have hconsumed : s.answers.length = u.answers.length + (k + dataNoackRequests new) := hu.consumed
  have hle' := hu.dataNoacks
  rw [← hans, ← hstarts, ← hdatas] at hconsumed
  exact ⟨all, hall, hconsumed, by rw [hstarts, hretry, hcount], by omega, by omega, by omega, hstops⟩

/-- Settles O55: two answers an attempt are enough for 50, and each phase requested has taken one. -/
theorem beginTerminatesAndCounts : Obligations.BeginTerminatesAndCounts := by
  unfold Obligations.BeginTerminatesAndCounts
  refine ⟨fun strict id sub dir s h => beginLoop_isSome (s := s.beginEntered id sub dir) h, ?_⟩
  intro strict id sub dir s t h
  obtain ⟨new, hhist, hans, hretry, hone, hle, hdata, -⟩ := beginWhole_effect h
  exact ⟨new, _, hhist, hans, rfl, hretry, hone, hle, hdata⟩

/-- Events without a STOP request leave their count. -/
theorem stopRequests_hist {s t : State} {new : List Event} (h : t.hist = s.hist ++ new)
    (hn : stopRequests new = 0) : stopRequests t.hist = stopRequests s.hist := by
  rw [h, stopRequests_append, hn, Nat.add_zero]

/-- Settles O42: the accept, by the gate that a cleared counter finds open; the steps, by their effects; the whole
command, by its attempts and its one response. -/
theorem beginRequestsNoStop : Obligations.BeginRequestsNoStop := by
  unfold Obligations.BeginRequestsNoStop
  refine ⟨?_, ?_, ?_⟩
  · intro id sub dir s t h
    by_cases hs : s.seq = .idle
    · rw [exec_idle _ hs] at h
      cases h
      exact stopRequests_hist (congrArg State.hist (s.acceptBegin_eq id sub dir)) rfl
    · have hheld : exec (.beginTransaction id sub dir) s = .next (s.holdCommand (beginWord id sub dir)) :=
        acceptWhenIdle_busy _ _ hs
      rw [hheld] at h
      cases h
      rfl
  · intro strict s t hin h
    have hbusy : s.seq ≠ .idle := fun hs => by simp [State.inBegin, hs] at hin
    cases advance_effect h with
    | reset => rfl
    | bus | retry | fail | issue | ok | readOk => exact stopRequests_hist rfl rfl
    | late _ _ _ _ hs => exact absurd hs hbusy
    | benchReturn _ _ hs => exact absurd hs hbusy
    | benchWait _ _ _ hs => exact absurd hs hbusy
    | benchStop _ hs => exact absurd hs hbusy
    | accept _ _ _ _ _ hs => exact absurd hs hbusy
    | illegal _ _ _ _ hs => exact absurd hs hbusy
  · intro strict id sub dir s t h
    obtain ⟨new, hhist, -, -, -, -, -, hstop⟩ := beginWhole_effect h
    exact stopRequests_hist hhist hstop

end Sys2Proof.Machine
end

section
/-! Proofs of the family `41_begin_and_retry.md`: the small-step machine runs the command-level function (O52). -/

namespace Sys2Proof.Machine

/-- From `m` with the answers `xs` to come, the machine reaches what the command-level function says: its state after
two steps per answer consumed, or the hang after the last answer (`44_master_fsm.md` R194). -/
def RunsTo (strict : Bool) (xs : List Answer) (m : State) : Option State → Prop
  | some t => t.answers.length ≤ xs.length ∧ advanceN strict (2 * (xs.length - t.answers.length)) m = .next t
  | none => advanceN strict (2 * xs.length + 1) m = .fault .phaseNotCompleted

section
variable {strict : Bool}

theorem RunsTo.done (t : State) : RunsTo strict t.answers t (some t) := by
  refine ⟨le_rfl, ?_⟩
  rw [Nat.sub_self]
  rfl

theorem RunsTo.hang {m : State} (h : advance strict m = .fault .phaseNotCompleted) : RunsTo strict [] m none :=
  advanceN_succ_of_fault h

/-- A completed phase takes one answer and two steps: the bus controller's and the CORE's. -/
theorem RunsTo.cons {m u v : State} {x : Answer} {xs : List Answer} {o : Option State}
    (hu : advance strict m = .next u) (hv : advance strict u = .next v) (h : RunsTo strict xs v o) :
    RunsTo strict (x :: xs) m o := by
  have htwo (n : Nat) : advanceN strict (n + 2) m = advanceN strict n v :=
    (advanceN_succ_of_next hu).trans (advanceN_succ_of_next hv)
  cases o with
  | none => exact (htwo (2 * xs.length + 1)).trans h
  | some t =>
    obtain ⟨hle, hrun⟩ := h
    have hlen : 2 * ((x :: xs).length - t.answers.length) = 2 * (xs.length - t.answers.length) + 2 := by
      rw [List.length_cons]; omega
    exact ⟨hle.trans (Nat.le_succ _), by rw [hlen, htwo, hrun]⟩

end

/-- A state that has just requested the phase `p`, completed by the answer `x` (`40_bus_phase_controller.md` R118). -/
def State.answeredRequest (s : State) (p : Phase) (x : Answer) (rest : List Answer) : State :=
  { s with
    bcStatus := x.s
    bcData := x.d
    bcCtrl := ctrlCompleted (ctrlAfterWrite s.bcCtrl (pat p))
    answers := rest
    hist := s.hist ++ [.req p s.bcData, .cpl p x.s x.d]
    accesses := s.accesses ++ [.wr .ctrl (pat p)] }

/-- The status taken from the answer: the command-level function's driven phase (`40_bus_phase_controller.md` R116). -/
theorem State.takeStatus_answeredRequest (s : State) (p : Phase) (x : Answer) (rest : List Answer) :
    (s.answeredRequest p x rest).takeStatus = s.driven p x rest := by
  simp [State.takeStatus_eq, State.answeredRequest, State.driven]

section
variable {strict : Bool} {s : State} {p : Phase}

/-- A CORE that has requested a phase waits for the bus controller (`40_bus_phase_controller.md` R115). -/
theorem advance_requestPhase (hr : s.resetIn = none) (hs : s.seq ≠ .idle) (hp : p ≠ .stop) :
    advance strict (s.requestPhase p) = busStep (s.requestPhase p) := by
  have hf : (s.requestPhase p).intFlag = false := by
    rw [State.requestPhase_wait s hp]
    exact intOf_ctrlAfterWrite_pat p s.bcCtrl
  refine advance_bus ?_ ?_ hf
  · rwa [State.requestPhase_wait s hp]
  · rwa [State.requestPhase_wait s hp]

/-- What a requested phase comes to: nothing more without an answer, and with one what the CORE's completing step comes
to. -/
theorem RunsTo.request {o : Option State} (hr : s.resetIn = none) (hs : s.seq ≠ .idle) (hp : p ≠ .stop)
    (hnil : s.answers = [] → o = none)
    (hcons : ∀ x xs, s.answers = x :: xs →
      ∃ v, advance strict (s.answeredRequest p x xs) = .next v ∧ RunsTo strict xs v o) :
    RunsTo strict s.answers (s.requestPhase p) o := by
  have hbus := advance_requestPhase (strict := strict) hr hs hp
  have hcpl := State.busComplete_requestPhase s hp
  cases ha : s.answers with
  | nil =>
    rw [ha] at hcpl
    rw [hnil ha]
    exact .hang (by rw [hbus, busStep, hcpl])
  | cons x xs =>
    rw [ha] at hcpl
    obtain ⟨v, hv, h⟩ := hcons x xs ha
    exact .cons (hbus.trans (busStep_eq_next.2 hcpl)) hv h

end

/-! The operations that end an attempt set `seq`, so they do not read it. -/

/-- What the machine makes of the state an attempt has left. -/
def AttemptEnd.proceed (u : State) : AttemptEnd → State
  | .retry => u.attemptGate
  | .fail c => u.raiseFail .beginCmd c
  | .ok => u.returnOk .beginCmd

theorem State.attemptGate_withSeq (s : State) (q : Seq) : { s with seq := q }.attemptGate = s.attemptGate := rfl

theorem AttemptEnd.proceed_withSeq (e : AttemptEnd) (s : State) (q : Seq) :
    e.proceed { s with seq := q } = e.proceed s := by
  cases e <;> rfl

/-- The completed address phase proceeds by its verdict (`41_begin_and_retry.md` R135). -/
theorem State.completeAddress_eq_proceed (strict : Bool) (s : State) :
    s.completeAddress strict =
      (AttemptEnd.ofVerdict (addrVerdict strict (directionOf s.ab) (cond s.status))).proceed s.takeStatus := by
  unfold State.completeAddress
  cases addrVerdict strict (directionOf s.ab) (cond s.status) <;> rfl

/-- The address step of an attempt: the machine, and the attempt as a whole. -/
theorem runsTo_address {strict : Bool} {s : State} (hr : s.resetIn = none) {o : Option State}
    (hnil : s.answers = [] → o = none)
    (hcons : ∀ y ys, s.answers = y :: ys →
      RunsTo strict ys ((AttemptEnd.ofVerdict (addrVerdict strict (directionOf s.ab) (cond (maskStatus y.s)))).proceed
        (s.afterAddress y ys)) o) :
    RunsTo strict s.answers { s with held := true }.issueAddress o := by
  refine RunsTo.request (s := { s.addressLoaded with seq := .bAddr }) hr nofun nofun hnil fun y ys ha => ?_
  refine ⟨_, advance_address hr rfl (intOf_ctrlCompleted _), ?_⟩
  rw [State.completeAddress_eq_proceed, State.takeStatus_answeredRequest]
  exact AttemptEnd.proceed_withSeq _ (s.afterAddress y ys) .bAddr ▸ hcons y ys ha

/-- One attempt: the machine, from the request of START, and the attempt as a whole. -/
theorem runsTo_attempt {strict : Bool} {s : State} (hr : s.resetIn = none) (hlt : s.retry.toNat < 50)
    {o : Option State} (hnone : attempt strict s = none → o = none)
    (hsome : ∀ e u, attempt strict s = some (e, u) → RunsTo strict u.answers (e.proceed u) o) :
    RunsTo strict s.answers s.attemptGate o := by
  have hgate : s.attemptGate = { s with retry := s.retry + 1#6, seq := .bStart }.requestPhase .start := by
    rw [State.attemptGate, if_neg (by simp only [Config.maxAttempts]; omega)]
  rw [hgate]
  refine RunsTo.request (s := { s with retry := s.retry + 1#6, seq := .bStart }) hr nofun nofun
    (fun ha => hnone (attempt_of_nil ha)) fun x xs ha => ⟨_, advance_start hr rfl (intOf_ctrlCompleted _), ?_⟩
  have ha : s.answers = x :: xs := ha
  by_cases hl : cond (maskStatus x.s) = .arbLost
  · have h : RunsTo strict xs (s.afterStart x xs).attemptGate o := hsome .retry _ (attempt_of_arbLost ha hl)
    rw [← State.attemptGate_withSeq _ .bStart] at h
    rw [State.completeStart_of_arbLost (s := State.answeredRequest _ .start x xs) hl, State.takeStatus_answeredRequest]
    exact h
  by_cases hs : cond (maskStatus x.s) ≠ .startTx ∧ cond (maskStatus x.s) ≠ .rstartTx
  · have h := hsome (.fail .startSeq) (s.afterStart x xs) (attempt_of_unexpected ha hl hs)
    rw [State.completeStart_of_unexpected (s := State.answeredRequest _ .start x xs) hl hs,
      State.takeStatus_answeredRequest]
    exact h
  · have hs : cond (maskStatus x.s) = .startTx ∨ cond (maskStatus x.s) = .rstartTx := by tauto
    rw [State.completeStart_of_started (s := State.answeredRequest _ .start x xs) hs, State.takeStatus_answeredRequest]
    refine runsTo_address (s := { s.afterStart x xs with seq := .bStart }) hr ?_ ?_
    · rintro rfl
      exact hnone (attempt_of_unanswered_address ha hs)
    · rintro y ys rfl
      have h := hsome _ _ (attempt_of_address ha hs)
      exact AttemptEnd.proceed_withSeq _ ((s.afterStart x (y :: ys)).afterAddress y ys) .bStart ▸ h

/-- The loop of BEGIN, from its attempt gate (`41_begin_and_retry.md` R130 to R137). -/
theorem runsTo_beginLoop {strict : Bool} {n : Nat} {s : State} (hr : s.resetIn = none)
    (hn : 50 ≤ s.retry.toNat + n) : RunsTo strict s.answers s.attemptGate (beginLoop strict n s) := by
  induction n generalizing s with
  | zero =>
    rw [State.attemptGate_exhausted hn, beginLoop_exhausted 0 hn]
    exact .done (s.raiseFail .beginCmd .budget)
  | succ n ih =>
    by_cases hlt : s.retry.toNat < 50
    · rw [beginLoop_succ n hlt]
      refine runsTo_attempt hr hlt (fun h => by rw [h]; rfl) fun e u hatt => ?_
      obtain ⟨⟨new, hu⟩, -⟩ := attempt_effect hlt hatt
      rw [hatt]
      cases e with
      | retry => exact ih (hu.resetIn.trans hr) (by rw [hu.retry]; omega)
      | fail c => exact .done (u.raiseFail .beginCmd c)
      | ok => exact .done (u.returnOk .beginCmd)
    · have hge : 50 ≤ s.retry.toNat := by omega
      rw [State.attemptGate_exhausted hge, beginLoop_exhausted _ hge]
      exact .done (s.raiseFail .beginCmd .budget)

/-! The completed phases of WRITE and READ by their status (`42_byte_transfer_and_end.md` R150, R152). -/

section
variable {s : State}

theorem State.completeWrite_ok (h : cond s.status = .dataTxAck) :
    s.completeWrite = s.takeStatus.returnOk .writeCmd := if_pos h

theorem State.completeWrite_fail (h : cond s.status ≠ .dataTxAck) :
    s.completeWrite = s.takeStatus.raiseFail .writeCmd .dataWrite := if_neg h

theorem State.completeRead_ok (h : cond s.status = wantedCond s.ackreq) :
    s.completeRead = s.takeStatus.takeData.returnOk .readCmd := if_pos h

theorem State.completeRead_fail (h : cond s.status ≠ wantedCond s.ackreq) :
    s.completeRead = s.takeStatus.raiseFail .readCmd .dataRead := if_neg h

end

/-- WRITE, from its accept (`42_byte_transfer_and_end.md` R150). -/
theorem runsTo_writeWhole {strict : Bool} {v : Byte} {s : State} (hr : s.resetIn = none) :
    RunsTo strict s.answers (s.acceptWrite v) (writeWhole v s) := by
  refine RunsTo.request (s := { (s.record (.acc (.writeByte v))).writeData v with seq := .wData }) hr nofun nofun
    (fun ha => ?_) fun x xs ha => ⟨_, advance_write hr rfl (intOf_ctrlCompleted _), ?_⟩
  · have ha : s.answers = [] := ha
    simp [writeWhole, drivePhase_eq, ha]
  have ha : s.answers = x :: xs := ha
  by_cases hc : cond (maskStatus x.s) = .dataTxAck
  · rw [State.completeWrite_ok (s := State.answeredRequest _ .dataNoack x xs) hc, State.takeStatus_answeredRequest]
    simp only [writeWhole, drivePhase_eq .dataNoack _ nofun, State.writeData_answers, State.record_answers, ha, hc,
      if_true]
    exact .done (State.returnOk _ .writeCmd)
  · rw [State.completeWrite_fail (s := State.answeredRequest _ .dataNoack x xs) hc, State.takeStatus_answeredRequest]
    simp only [writeWhole, drivePhase_eq .dataNoack _ nofun, State.writeData_answers, State.record_answers, ha, hc,
      if_false]
    exact .done (State.raiseFail _ .writeCmd .dataWrite)

/-- READ, from its accept (`42_byte_transfer_and_end.md` R152). -/
theorem runsTo_readWhole {strict : Bool} {a : Bool} {s : State} (hr : s.resetIn = none) :
    RunsTo strict s.answers (s.acceptRead a) (readWhole a s) := by
  refine RunsTo.request (s := { s.record (.acc (.readByte a)) with ackreq := a, seq := .rData }) hr nofun
    (readPhase_ne_stop a) (fun ha => ?_) fun x xs ha => ⟨_, advance_read hr rfl (intOf_ctrlCompleted _), ?_⟩
  · have ha : s.answers = [] := ha
    simp [readWhole, drivePhase_eq, readPhase_ne_stop, ha]
  have ha : s.answers = x :: xs := ha
  by_cases hc : cond (maskStatus x.s) = wantedCond a
  · rw [State.completeRead_ok (s := State.answeredRequest _ (readPhase a) x xs), State.takeStatus_answeredRequest]
    · simp only [readWhole, drivePhase_eq _ _ (readPhase_ne_stop a), State.record_answers, ha, hc, if_true]
      exact .done (State.returnOk _ .readCmd)
    · exact hc
  · rw [State.completeRead_fail (s := State.answeredRequest _ (readPhase a) x xs), State.takeStatus_answeredRequest]
    · simp only [readWhole, drivePhase_eq _ _ (readPhase_ne_stop a), State.record_answers, ha, hc, if_false]
      exact .done (State.raiseFail _ .readCmd .dataRead)
    · exact hc

/-- A host command, from its accept. -/
theorem runsTo_whole {strict : Bool} {i : Instr} {s : State} (hi : i.isHostCommand = true) (hr : s.resetIn = none) :
    RunsTo strict s.answers (s.accepted i) (whole strict i s) := by
  obtain ⟨id, sub, dir, rfl⟩ | ⟨v, rfl⟩ | ⟨a, rfl⟩ | rfl := hostCommand_cases hi
  · exact runsTo_beginLoop (n := 50) (s := s.beginEntered id sub dir) hr (Nat.le_add_left ..)
  · exact runsTo_writeWhole hr
  · exact runsTo_readWhole hr
  · have hans : s.acceptEnd.answers = s.answers := by rw [State.acceptEnd_eq]
    exact hans ▸ .done s.acceptEnd

/-- A ready CORE takes the word in one step, and what follows runs to the command-level function's outcome. -/
theorem runsTo_wholeWord {strict : Bool} {s : State} {w : CmdWord} {rest : List CmdWord} (h : s.ready)
    (hc : s.hostCmds = w :: rest) :
    ∃ m, advance strict s = .next m ∧ RunsTo strict s.answers m (wholeWord strict w { s with hostCmds := rest }) := by
  cases hd : decodeCmd w with
  | error e =>
    rw [wholeWord_of_error hd]
    exact ⟨_, advance_illegal h hc hd, .done (State.acceptIllegal _ w)⟩
  | ok i =>
    obtain ⟨hs, hr, hb, hl⟩ := h
    have hp : ∀ c, s.bench ≠ .presented c := fun c hc => by simp [State.benchQuiet, hc] at hb
    have hh : s.bench ≠ .holding := fun hh => by simp [State.benchQuiet, hh] at hb
    rw [wholeWord_of_ok hd]
    exact ⟨_, advance_accept hr hs hp hh hl hc hd,
      runsTo_whole (s := { s with hostCmds := rest }) (decodeCmd_isHostCommand hd) hr⟩

/-- Settles O52: one step to accept, then two for each answer consumed. -/
theorem stepsAgreeWithCommands : Obligations.StepsAgreeWithCommands := by
  unfold Obligations.StepsAgreeWithCommands
  intro strict s w rest h hc
  obtain ⟨m, hm, hrun⟩ := runsTo_wholeWord (strict := strict) h hc
  have hfirst (n : Nat) : advanceN strict (1 + n) s = advanceN strict n m := by
    rw [Nat.add_comm, advanceN_succ_of_next hm]
  have hlevel : commandLevel strict { s with hostCmds := rest } w s.answers =
      (wholeWord strict w { s with hostCmds := rest }).map fun t => (t, t.result, t.answers) := rfl
  rw [hlevel]
  cases hw : wholeWord strict w { s with hostCmds := rest } with
  | none =>
    rw [hw] at hrun
    have hlen : 2 + 2 * s.answers.length = 1 + (2 * s.answers.length + 1) := by omega
    exact (congrArg (advanceN strict · s) hlen).trans ((hfirst _).trans hrun)
  | some t =>
    rw [hw] at hrun
    obtain ⟨hle, hrun⟩ := hrun
    exact ⟨rfl, rfl, hle, (hfirst _).trans hrun⟩

end Sys2Proof.Machine
end

section
/-! Proofs of the family `41_begin_and_retry.md`: a BEGIN by how its attempts end (O53, O54, O60). -/

namespace Sys2Proof.Machine

/-! An attempt by the answers of `41_begin_and_retry.md` R138 and R141. -/

section
variable {strict : Bool} {s : State} {a rest : List Answer}

theorem attempt_of_transient (h : transientAttempt strict (directionOf s.ab) a) (ha : s.answers = a ++ rest) :
    ∃ u, attempt strict s = some (.retry, u) ∧ u.answers = rest := by
  obtain ⟨x, rfl, hx⟩ | ⟨x, y, rfl, hx, hy⟩ := h
  · exact ⟨_, attempt_of_arbLost ha hx, rfl⟩
  · have hv := (addrVerdict_retry strict (directionOf s.ab) _).2 hy
    exact ⟨_, by rw [attempt_of_address ha hx, hv]; rfl, rfl⟩

theorem attempt_of_terminal {cause : Cause} (h : terminalAttempt strict (directionOf s.ab) cause a)
    (ha : s.answers = a ++ rest) : ∃ u, attempt strict s = some (.fail cause, u) ∧ u.answers = rest := by
  obtain ⟨x, rfl, rfl, hl, h1, h2⟩ | ⟨x, y, rfl, rfl, hx, hn, hl, hk⟩ := h
  · exact ⟨_, attempt_of_unexpected ha hl ⟨h1, h2⟩, rfl⟩
  · have hv := (addrVerdict_abort strict (directionOf s.ab) _).2 ⟨hn, hl, hk⟩
    exact ⟨_, by rw [attempt_of_address ha hx, hv]; rfl, rfl⟩

theorem attempt_of_acked (h : ackedAttempt strict (directionOf s.ab) a) (ha : s.answers = a ++ rest) :
    ∃ u, attempt strict s = some (.ok, u) ∧ u.answers = rest := by
  obtain ⟨x, y, rfl, hx, hy⟩ := h
  have hv := (addrVerdict_acked strict (directionOf s.ab) _).2 hy
  exact ⟨_, by rw [attempt_of_address ha hx, hv]; rfl, rfl⟩

end

/-- Attempts that end in a transient status take the loop on, one pass each (`41_begin_and_retry.md` R138, R139). -/
theorem beginLoop_of_transient {strict : Bool} {rest : List Answer} {failed : List (List Answer)} {s : State}
    (hf : ∀ a ∈ failed, transientAttempt strict (directionOf s.ab) a) (ha : s.answers = failed.flatten ++ rest)
    (hle : s.retry.toNat + failed.length ≤ 50) :
    ∃ u new, s.Attempted u failed.length new ∧ u.answers = rest
      ∧ ∀ n, beginLoop strict (failed.length + n) s = beginLoop strict n u := by
  induction failed generalizing s with
  | nil => exact ⟨s, [], .refl s, ha, fun n => by rw [List.length_nil, Nat.zero_add]⟩
  | cons a failed ih =>
    rw [List.length_cons] at hle
    have hlt : s.retry.toNat < 50 := by omega
    rw [List.flatten_cons, List.append_assoc] at ha
    obtain ⟨u, hatt, hans⟩ := attempt_of_transient (hf a List.mem_cons_self) ha
    obtain ⟨⟨new, hu⟩, -⟩ := attempt_effect hlt hatt
    obtain ⟨v, more, hv, hrest, hloop⟩ :=
      ih (s := u) (fun b hb => hu.ab ▸ hf b (List.mem_cons_of_mem a hb)) hans (by rw [hu.retry]; omega)
    refine ⟨v, new ++ more, ?_, hrest, fun n => ?_⟩
    · rw [List.length_cons, Nat.add_comm]
      exact hu.trans hv
    · have hlen : (a :: failed).length + n = failed.length + n + 1 := by rw [List.length_cons]; omega
      rw [hlen, beginLoop_succ _ hlt, hatt]
      exact hloop n

/-- Of a BEGIN whose first attempts end in a transient status and whose next one, the answers then being `tail`, ends
by `e` with `rest` left. -/
theorem beginWhole_of_attempts {strict : Bool} {id sub : Byte} {dir : Direction} {s : State}
    {failed : List (List Answer)} {tail rest : List Answer} {e : AttemptEnd} (hlt : failed.length < 50)
    (hf : ∀ a ∈ failed, transientAttempt strict dir a) (ha : s.answers = failed.flatten ++ tail)
    (hlast : ∀ u : State, directionOf u.ab = dir → u.answers = tail →
      ∃ v, attempt strict u = some (e, v) ∧ v.answers = rest) :
    ∃ v new n, (s.beginEntered id sub dir).Attempted v (failed.length + 1) new ∧ v.answers = rest
      ∧ (e = .ok → v.held = true)
      ∧ whole strict (.beginTransaction id sub dir) s = e.continueLoop strict n v := by
  have hdir : directionOf (s.beginEntered id sub dir).ab = dir := directionOf_addressByte id sub dir
  obtain ⟨u, new, hu, hans, hloop⟩ := beginLoop_of_transient (strict := strict) (s := s.beginEntered id sub dir)
    (by rwa [hdir]) ha ((Nat.zero_add _).trans_le hlt.le)
  have hult : u.retry.toNat < 50 := by rw [hu.wholeRetry]; exact hlt
  obtain ⟨v, hatt, hrest⟩ := hlast u (by rw [hu.ab, hdir]) hans
  obtain ⟨⟨more, hv⟩, hheld⟩ := attempt_effect hult hatt
  refine ⟨v, new ++ more, 49 - failed.length, hu.trans hv, hrest, hheld, ?_⟩
  have hfuel : 50 = failed.length + (49 - failed.length + 1) := by omega
  have hwhole : whole strict (.beginTransaction id sub dir) s = beginLoop strict 50 (s.beginEntered id sub dir) := rfl
  rw [hwhole, hfuel, hloop, beginLoop_succ _ hult, hatt]
  rfl

/-- A ready CORE runs a BEGIN to the end that the command-level function gives it. -/
theorem advanceN_beginWhole {strict : Bool} {id sub : Byte} {dir : Direction} {s t : State} {cmds : List CmdWord}
    {used : List Answer} (h : s.ready) (hc : s.hostCmds = beginWord id sub dir :: cmds)
    (hw : whole strict (.beginTransaction id sub dir) { s with hostCmds := cmds } = some t)
    (ha : s.answers = used ++ t.answers) : advanceN strict (1 + 2 * used.length) s = .next t := by
  obtain ⟨m, hm, hrun⟩ := runsTo_wholeWord (strict := strict) h hc
  rw [wholeWord_of_ok (decodeCmd_beginWord id sub dir), hw] at hrun
  obtain ⟨-, hrun⟩ := hrun
  have hlen : s.answers.length - t.answers.length = used.length := by rw [ha, List.length_append, Nat.add_sub_cancel]
  rw [Nat.add_comm, advanceN_succ_of_next hm, ← hlen, hrun]

/-- Settles O53: transient attempts take the loop on, and an acknowledged one ends it. -/
theorem beginSucceedsOnNthAttempt : Obligations.BeginSucceedsOnNthAttempt := by
  unfold Obligations.BeginSucceedsOnNthAttempt
  intro strict id sub dir s cmds failed last rest h hc hlt hf hlast ha
  have ha' : s.answers = failed.flatten ++ (last ++ rest) := by rw [ha, List.append_assoc]
  obtain ⟨v, new, n, hv, hrest, hheld, hw⟩ :=
    beginWhole_of_attempts (s := { s with hostCmds := cmds }) (id := id) (sub := sub) hlt hf ha'
      fun u hdir hu => attempt_of_acked (by rwa [hdir]) hu
  obtain ⟨all, hall, hstarts, -, hstops, -⟩ := hv.wholeHistory (v.returnOk_hist .beginCmd) rfl rfl rfl
  have hrun := advanceN_beginWhole h hc hw (used := failed.flatten ++ last) (by rw [ha]; exact hrest ▸ rfl)
  rw [List.length_append] at hrun
  exact ⟨_, all, hrun, rfl, rfl, hv.wholeRetry, hheld rfl, hv.rdata, hrest, hv.hostCmds, hall, hstarts, hstops⟩

/-- Settles O60: transient attempts take the loop on, and a terminal one ends it with its label. -/
theorem beginFailsOnTerminalStatus : Obligations.BeginFailsOnTerminalStatus := by
  unfold Obligations.BeginFailsOnTerminalStatus
  intro strict id sub dir s cmds cause failed last rest h hc hlt hf hlast ha
  have ha' : s.answers = failed.flatten ++ (last ++ rest) := by rw [ha, List.append_assoc]
  obtain ⟨v, new, n, hv, hrest, -, hw⟩ :=
    beginWhole_of_attempts (s := { s with hostCmds := cmds }) (id := id) (sub := sub) hlt hf ha'
      fun u hdir hu => attempt_of_terminal (by rwa [hdir]) hu
  obtain ⟨all, hall, hstarts, -, hstops, hrsp, hmem⟩ :=
    hv.wholeHistory (v.raiseFail_hist .beginCmd cause) rfl rfl rfl
  have hrun := advanceN_beginWhole h hc hw (used := failed.flatten ++ last) (by rw [ha]; exact hrest ▸ rfl)
  rw [List.length_append] at hrun
  have hrdata : v.rdata = s.rdata := hv.rdata
  exact ⟨_, all, hrun, rfl, rfl, hv.wholeRetry, hrdata, hrest, hv.hostCmds, hall, hmem _ List.mem_cons_self,
    by rw [hrsp, ← hrdata]; rfl, hstarts, hstops⟩

/-- Settles O54: fifty transient attempts leave the loop at its closed gate. -/
theorem beginFailsAfterFiftyAttempts : Obligations.BeginFailsAfterFiftyAttempts := by
  unfold Obligations.BeginFailsAfterFiftyAttempts
  intro strict id sub dir s cmds failed rest h hc hlen hf ha
  have hdir : directionOf (addressByte id sub dir) = dir := directionOf_addressByte id sub dir
  obtain ⟨u, new, hu, hrest, hloop⟩ :=
    beginLoop_of_transient (strict := strict) (s := State.beginEntered { s with hostCmds := cmds } id sub dir)
      (fun a hmem => hdir.symm ▸ hf a hmem) ha ((Nat.zero_add _).trans_le hlen.le)
  have hw : whole strict (.beginTransaction id sub dir) { s with hostCmds := cmds }
      = some (u.raiseFail .beginCmd .budget) := by
    rw [hlen] at hloop
    exact hloop 0
  rw [hlen] at hu
  obtain ⟨all, hall, hstarts, -, hstops, -⟩ := hu.wholeHistory (u.raiseFail_hist .beginCmd .budget) rfl rfl rfl
  have hrun := advanceN_beginWhole h hc hw (used := failed.flatten) (by rw [ha]; exact hrest ▸ rfl)
  exact ⟨_, all, hrun, rfl, rfl, BitVec.eq_of_toNat_eq hu.wholeRetry, hu.rdata, hrest, hall, hstarts, hstops⟩

end Sys2Proof.Machine
end

section
/-! Proofs of the family `42_byte_transfer_and_end.md`: the completed phases of WRITE and READ (O24, O25). -/

namespace Sys2Proof.Machine

/-- Settles O24. -/
theorem writeCompleted : Obligations.WriteCompleted := by
  unfold Obligations.WriteCompleted
  intro strict s hr hs hf
  rw [advance_write hr hs hf]
  constructor
  · intro hc
    rw [State.completeWrite_ok hc, State.takeStatus_eq, State.returnOk_eq]
  · intro hc
    rw [State.completeWrite_fail hc, State.takeStatus_eq, State.raiseFail_eq]

/-- Settles O25. -/
theorem readCompleted : Obligations.ReadCompleted := by
  unfold Obligations.ReadCompleted
  intro strict s hr hs hf
  rw [advance_read hr hs hf]
  constructor
  · intro hc
    rw [State.completeRead_of_wanted hc]
  · intro hc
    rw [State.completeRead_of_unwanted hc]

end Sys2Proof.Machine
end

section
/-! Proofs of the family `42_byte_transfer_and_end.md`: WRITE, READ and END as whole commands, the answers they consume
and the counter they leave alone (O43, O56). -/

namespace Sys2Proof.Machine

/-- A WRITE with its phase answered by `x` and the status taken, the response not yet given
(`42_byte_transfer_and_end.md` R150). -/
def State.writeDriven (s : State) (v : Byte) (x : Answer) (rest : List Answer) : State :=
  ((s.record (.acc (.writeByte v))).writeData v).driven .dataNoack x rest

/-- A READ with its phase answered by `x` and the status taken, the response not yet given
(`42_byte_transfer_and_end.md` R152). -/
def State.readDriven (s : State) (a : Bool) (x : Answer) (rest : List Answer) : State :=
  { s.record (.acc (.readByte a)) with ackreq := a }.driven (readPhase a) x rest

/-! The two commands by the answer they find. -/

section
variable {s : State} {x : Answer} {rest : List Answer}

theorem writeWhole_of_nil (v : Byte) (ha : s.answers = []) : writeWhole v s = none := by
  simp [writeWhole, drivePhase_eq, ha]

theorem writeWhole_of_cons (v : Byte) (ha : s.answers = x :: rest) :
    writeWhole v s = some
      (if cond (maskStatus x.s) = .dataTxAck then (s.writeDriven v x rest).returnOk .writeCmd
        else (s.writeDriven v x rest).raiseFail .writeCmd .dataWrite) := by
  rw [writeWhole, drivePhase_eq .dataNoack _ nofun, State.writeData_answers, State.record_answers, ha, apply_ite some]
  rfl

theorem readWhole_of_nil (a : Bool) (ha : s.answers = []) : readWhole a s = none := by
  simp [readWhole, drivePhase_eq, readPhase_ne_stop, ha]

theorem readWhole_of_cons (a : Bool) (ha : s.answers = x :: rest) :
    readWhole a s = some
      (if cond (maskStatus x.s) = wantedCond a then (s.readDriven a x rest).takeData.returnOk .readCmd
        else (s.readDriven a x rest).raiseFail .readCmd .dataRead) := by
  rw [readWhole, drivePhase_eq _ _ (readPhase_ne_stop a), State.record_answers, ha, apply_ite some]
  rfl

end

/-- `o` is the outcome of a command that drives one phase from `s` and waits for it: it hangs exactly without an answer,
and otherwise consumes one and leaves the counter (`42_byte_transfer_and_end.md` R151, R158). -/
structure State.DrivesOnePhase (s : State) (o : Option State) : Prop where
  hangs : o = none ↔ s.answers = []
  consumed : ∀ t, o = some t → s.answers.length = t.answers.length + 1
  retry : ∀ t, o = some t → t.retry = s.retry

section
variable {s u : State} {x : Answer} {rest : List Answer}

theorem State.DrivesOnePhase.of_nil (ha : s.answers = []) : s.DrivesOnePhase none where
  hangs := by simp [ha]
  consumed := nofun
  retry := nofun

theorem State.DrivesOnePhase.of_cons (ha : s.answers = x :: rest) (hu : u.answers = rest) (hr : u.retry = s.retry) :
    s.DrivesOnePhase (some u) where
  hangs := by simp [ha]
  consumed := by simp [ha, hu]
  retry := by simp [hr]

end

theorem drivesOnePhase_writeWhole (v : Byte) (s : State) : s.DrivesOnePhase (writeWhole v s) := by
  cases ha : s.answers with
  | nil =>
    rw [writeWhole_of_nil v ha]
    exact .of_nil ha
  | cons x rest =>
    rw [writeWhole_of_cons v ha]
    split
    · exact .of_cons ha rfl rfl
    · exact .of_cons ha rfl rfl

theorem drivesOnePhase_readWhole (a : Bool) (s : State) : s.DrivesOnePhase (readWhole a s) := by
  cases ha : s.answers with
  | nil =>
    rw [readWhole_of_nil a ha]
    exact .of_nil ha
  | cons x rest =>
    rw [readWhole_of_cons a ha]
    split
    · exact .of_cons ha rfl rfl
    · exact .of_cons ha rfl rfl

/-- Settles O56. -/
theorem answersConsumed : Obligations.AnswersConsumed := by
  unfold Obligations.AnswersConsumed
  refine ⟨fun _ v s => ?_, fun _ a s => ?_, fun _ s => ⟨s.acceptEnd, rfl, by rw [State.acceptEnd_eq]⟩⟩
  · have h := drivesOnePhase_writeWhole v s
    exact ⟨h.hangs, h.consumed⟩
  · have h := drivesOnePhase_readWhole a s
    exact ⟨h.hangs, h.consumed⟩

/-- ATTEMPTS is the counter (`10_state.md` R34). -/
theorem State.stat_attempts (s : State) : s.stat.extractLsb' 0 6 = s.retry := BitVec.extractLsb'_append_eq_right

/-- A host command is accepted in IDLE and held otherwise (`44_master_fsm.md` R192). -/
theorem exec_hostCommand_cases {i : Instr} {s t : State} (hi : i.isHostCommand = true) (h : exec i s = .next t) :
    t = s.accepted i ∨ ∃ w, t = s.holdCommand w := by
  by_cases hs : s.seq = .idle
  · rw [exec_idle i hs] at h
    cases h
    exact .inl rfl
  · obtain ⟨id, sub, dir, rfl⟩ | ⟨v, rfl⟩ | ⟨a, rfl⟩ | rfl := hostCommand_cases hi
    all_goals
      cases (acceptWhenIdle_busy _ _ hs).symm.trans h
      exact .inr ⟨_, rfl⟩

/-- The commands but BEGIN (`42_byte_transfer_and_end.md` R151). -/
def IsTransfer (i : Instr) : Prop :=
  (∃ v, i = .writeByte v) ∨ (∃ a, i = .readByte a) ∨ i = .endTransaction

theorem IsTransfer.isHostCommand {i : Instr} (h : IsTransfer i) : i.isHostCommand = true := by
  obtain ⟨v, rfl⟩ | ⟨a, rfl⟩ | rfl := h
  all_goals rfl

/-- Only a BEGIN touches the counter as a whole command (`42_byte_transfer_and_end.md` R151). -/
theorem whole_retry {strict : Bool} {i : Instr} {s t : State} (hi : IsTransfer i) (h : whole strict i s = some t) :
    t.retry = s.retry := by
  obtain ⟨v, rfl⟩ | ⟨a, rfl⟩ | rfl := hi
  · exact (drivesOnePhase_writeWhole v s).retry t h
  · exact (drivesOnePhase_readWhole a s).retry t h
  · have ht : s.acceptEnd = t := Option.some.inj h
    rw [← ht, State.acceptEnd_eq]

theorem State.accepted_retry {i : Instr} (s : State) (hi : IsTransfer i) : (s.accepted i).retry = s.retry := by
  obtain ⟨v, rfl⟩ | ⟨a, rfl⟩ | rfl := hi
  · rw [State.accepted, State.acceptWrite_eq]
  · rw [State.accepted, State.acceptRead_eq]
  · rw [State.accepted, State.acceptEnd_eq]

/-- Nor does a step while a WRITE or a READ is in progress. -/
theorem advance_retry {strict : Bool} {s t : State} (hs : s.seq = .wData ∨ s.seq = .rData) (hr : s.resetIn = none)
    (h : advance strict s = .next t) : t.retry = s.retry := by
  cases advance_effect h with
  | reset u hu => simp [hr] at hu
  | retry _ _ hq => rcases hs with hs | hs <;> simp [hs] at hq
  | accept _ _ _ _ _ hq => rcases hs with hs | hs <;> simp [hs] at hq
  | bus | late | fail | issue | ok | readOk | benchReturn | benchWait | benchStop | illegal => rfl

/-- A WRITE that was answered has requested its one DATA_NOACK, and fails on any status but DATA_TX_ACK
(`42_byte_transfer_and_end.md` R150). -/
theorem writeWhole_effect {v : Byte} {s t : State} {x : Answer} {rest : List Answer} (ha : s.answers = x :: rest)
    (h : writeWhole v s = some t) :
    (∃ tail, t.hist = s.hist ++ ([.acc (.writeByte v), .req .dataNoack v, .cpl .dataNoack x.s x.d] ++ tail)
        ∧ dataNoackRequests tail = 0 ∧ startRequests tail = 0)
      ∧ (cond (maskStatus x.s) ≠ .dataTxAck → t.result = 0xFF#8) := by
  have hdriven : (s.writeDriven v x rest).hist =
      s.hist ++ [.acc (.writeByte v), .req .dataNoack v, .cpl .dataNoack x.s x.d] := List.append_assoc _ _ _
  rw [writeWhole_of_cons v ha] at h
  split at h
  · next hc =>
    cases h
    exact ⟨⟨_, by rw [State.returnOk_hist, hdriven, List.append_assoc], rfl, rfl⟩, fun hn => absurd hc hn⟩
  · cases h
    exact ⟨⟨_, by rw [State.raiseFail_hist, hdriven, List.append_assoc], rfl, rfl⟩, fun _ => rfl⟩

/-- Settles O43: the three commands whole and at their accept, the completing steps, and the one phase of a WRITE. -/
theorem transfersLeaveRetryAlone : Obligations.TransfersLeaveRetryAlone := by
  unfold Obligations.TransfersLeaveRetryAlone
  refine ⟨fun strict i s t hi => ⟨fun h => ?_, fun h => ?_⟩, fun _ _ _ hs hr h => advance_retry hs hr h, ?_⟩
  · have hretry : t.retry = s.retry := whole_retry hi h
    exact ⟨hretry, by rw [State.stat_attempts, State.stat_attempts, hretry]⟩
  · have hi : IsTransfer i := hi
    obtain rfl | ⟨w, rfl⟩ := exec_hostCommand_cases hi.isHostCommand h
    · exact s.accepted_retry hi
    · rfl
  · intro strict v s t x rest h ha
    obtain ⟨⟨tail, hhist, hdata, hstart⟩, hfail⟩ := writeWhole_effect ha h
    refine ⟨⟨_, hhist, ?_, ?_⟩, fun hc => hfail fun hok => ?_⟩
    · rw [dataNoackRequests_append, hdata]
      rfl
    · rw [startRequests_append, hstart]
      rfl
    · exact Cond.noConfusion (hok.symm.trans hc)

end Sys2Proof.Machine
end

section
/-! Proofs of the family `42_byte_transfer_and_end.md`: the host's START/STOP obligation (O58). -/

namespace Sys2Proof.Machine

/-- A word that decodes is legal (`30_encoding.md` R87). -/
theorem legalWord_of_decodeCmd {w : CmdWord} {i : Instr} (h : decodeCmd w = .ok i) : legalWord w = true := by
  rw [← Bool.not_eq_false]
  intro hl
  obtain ⟨e, he⟩ := (decodeCmd_error_iff w).2 hl
  cases h.symm.trans he

/-- The words of the host commands are legal (`30_encoding.md` R98). -/
theorem legalWord_of_commandWord {i : Instr} {w : CmdWord} (h : commandWord i = some w) : legalWord w = true := by
  cases i with
  | beginTransaction id sub dir => cases h; exact legalWord_of_decodeCmd (decodeCmd_beginWord id sub dir)
  | writeByte v => cases h; exact legalWord_of_decodeCmd (decodeCmd_writeWord v)
  | readByte a => cases h; exact legalWord_of_decodeCmd (decodeCmd_readWord a)
  | endTransaction => cases h; exact legalWord_of_decodeCmd decodeCmd_endWord
  | phStart | phDataNoack | phDataAck | phStop => cases h

theorem Driver.legalProgram_words (d : Driver) : legalProgram d.words = true := by
  refine List.all_eq_true.2 fun w hw => ?_
  obtain ⟨i, -, hi⟩ := List.mem_filterMap.1 hw
  exact legalWord_of_commandWord hi

/-- No reset among the moves comes while an END is owed (`70_reset_and_hazards.md` R240). -/
def ResetsUnowed (owed : Bool) (ms : List Move) : Prop :=
  ∀ pre post, ms = pre ++ .reset :: post → owedBy owed pre = false

theorem resetsUnowed_nil (owed : Bool) : ResetsUnowed owed [] := by
  intro pre post h
  simp at h

theorem resetsUnowed_cons (owed : Bool) (m : Move) (ms : List Move) :
    ResetsUnowed owed (m :: ms) ↔ (m = .reset → owed = false) ∧ ResetsUnowed (m.owesAfter owed) ms := by
  constructor
  · intro h
    exact ⟨fun hm => h [] ms (by rw [hm]; rfl), fun pre post hms => h (m :: pre) post (by rw [hms]; rfl)⟩
  · rintro ⟨hhead, htail⟩ pre post h
    cases pre with
    | nil =>
      obtain ⟨hm, -⟩ := List.cons.inj h
      exact hhead hm
    | cons m' pre =>
      obtain ⟨rfl, hms⟩ := List.cons.inj h
      exact htail pre post hms

/-- The duty on a program: no END owed at its end, and no reset in it inside an episode. -/
theorem pairsStartStop_iff (owed : Bool) (ms : List Move) :
    pairsStartStop owed ms = true ↔ owedBy owed ms = false ∧ ResetsUnowed owed ms := by
  induction ms generalizing owed with
  | nil => simp [resetsUnowed_nil]
  | cons m ms ih =>
    rw [owedBy_cons, resetsUnowed_cons]
    cases m with
    | reset =>
      rw [pairsStartStop_reset, Bool.and_eq_true, ih]
      simp [Move.owesAfter, and_left_comm]
    | command i =>
      rw [pairsStartStop_command, ih]
      simp [Move.owesAfter]

/-! The moves to come and the duty at a state (`70_reset_and_hazards.md` R240). -/

section
variable {s t : State}

theorem State.moves_of_reset {u : ResetLeaves} (hr : s.resetIn = some u) :
    s.moves = .reset :: s.hostCmds.filterMap moveOf := by
  simp [State.moves, hr]

theorem State.moves_of_no_reset (hr : s.resetIn = none) : s.moves = s.hostCmds.filterMap moveOf := by
  simp [State.moves, hr]

/-- With a reset to come the duty is met only outside an episode. -/
theorem State.meetsDuty_of_reset {u : ResetLeaves} (hr : s.resetIn = some u) :
    s.meetsDuty = (!s.owesEnd && (s.takeReset u).meetsDuty) := by
  rw [State.meetsDuty, State.moves_of_reset hr, pairsStartStop_reset, State.meetsDuty, State.takeReset_owesEnd,
    State.moves_of_no_reset (s := s.takeReset u) rfl]
  rfl

/-- A command accepted is a move taken. -/
theorem State.meetsDuty_of_accept {w : CmdWord} {rest : List CmdWord} {i : Instr} (hr : s.resetIn = none)
    (hc : s.hostCmds = w :: rest) (hd : decodeCmd w = .ok i) (ht : t.owesEnd = owesAfter s.owesEnd i)
    (htr : t.resetIn = none) (htc : t.hostCmds = rest) : s.meetsDuty = t.meetsDuty := by
  rw [State.meetsDuty, State.moves_of_no_reset hr, hc, List.filterMap_cons_some (moveOf_of_ok hd),
    pairsStartStop_command, State.meetsDuty, State.moves_of_no_reset htr, htc, ht]

/-- An illegal word is no move (`60_exceptions.md` R205). -/
theorem State.moves_of_illegal {w : CmdWord} {rest : List CmdWord} {e : DecodeError} (hr : s.resetIn = none)
    (hc : s.hostCmds = w :: rest) (hd : decodeCmd w = .error e) (htr : t.resetIn = none) (htc : t.hostCmds = rest) :
    t.moves = s.moves := by
  rw [State.moves_of_no_reset hr, State.moves_of_no_reset htr, htc, hc, List.filterMap_cons_none (moveOf_of_error hd)]

/-- Events that accept no command leave the END owed. -/
theorem State.owesEnd_of_silent {es : List Event} (hh : t.hist = s.hist ++ es)
    (he : ∀ owed, es.foldl Event.owesAfter owed = owed) : t.owesEnd = s.owesEnd :=
  (owesEnd_of_hist hh).trans (he s.owesEnd)

/-- A step that takes no move and accepts nothing keeps the duty. -/
theorem State.meetsDuty_of_silent {es : List Event} (h : s.meetsDuty = true) (hm : t.moves = s.moves)
    (hh : t.hist = s.hist ++ es) (he : ∀ owed, es.foldl Event.owesAfter owed = owed) : t.meetsDuty = true := by
  rwa [State.meetsDuty, hm, State.owesEnd_of_silent hh he]

end

/-- An accept leaves the pending reset, the rest of the host's list and the direct call. -/
theorem State.accepted_frame (s : State) {i : Instr} (hi : i.isHostCommand = true) :
    (s.accepted i).resetIn = s.resetIn ∧ (s.accepted i).hostCmds = s.hostCmds ∧ (s.accepted i).bench = s.bench := by
  obtain ⟨id, sub, dir, rfl⟩ | ⟨v, rfl⟩ | ⟨a, rfl⟩ | rfl := hostCommand_cases hi
  · rw [State.accepted, State.acceptBegin_eq]
    exact ⟨rfl, rfl, rfl⟩
  · rw [State.accepted, State.acceptWrite_eq]
    exact ⟨rfl, rfl, rfl⟩
  · rw [State.accepted, State.acceptRead_eq]
    exact ⟨rfl, rfl, rfl⟩
  · rw [State.accepted, State.acceptEnd_eq]
    exact ⟨rfl, rfl, rfl⟩

/-- Every step keeps the duty: a reset and an accept take the move they are, and the other steps take none. -/
theorem meetsDuty_advance {strict : Bool} {s t : State} (h : advance strict s = .next t) (hs : s.meetsDuty = true) :
    t.meetsDuty = true := by
  cases advance_effect h with
  | reset u hr =>
    rw [State.meetsDuty_of_reset hr, Bool.and_eq_true] at hs
    exact hs.2
  | accept w rest i t hr _ _ _ hc hd hi ht =>
    subst ht
    obtain ⟨hframe, hcmds, -⟩ := State.accepted_frame { s with hostCmds := rest } hi
    rwa [← State.meetsDuty_of_accept hr hc hd (State.accepted_owesEnd { s with hostCmds := rest } hi)
      (hframe.trans hr) hcmds]
  | illegal w rest e hr _ _ _ hc hd =>
    exact State.meetsDuty_of_silent hs (State.moves_of_illegal hr hc hd hr rfl) rfl fun _ => rfl
  | benchReturn => exact hs
  | bus | late | retry | fail | issue | ok | readOk | benchWait | benchStop =>
    exact State.meetsDuty_of_silent hs rfl rfl fun _ => rfl

/-- What makes an END owed in runs in which only the host acts (`10_state.md` R33). -/
def State.Owing (s : State) : Prop :=
  s.held = true ∨ s.inBegin = true ∨ outstandingPhase s.bcCtrl = some .start

section
variable {s t : State}

theorem State.inBegin_of_idle (hs : s.seq = .idle) : ¬s.inBegin = true := by simp [State.inBegin, hs]

theorem outstandingPhase_ne_start {p : Phase} (hp : p ≠ .start) (old : Byte) :
    outstandingPhase (ctrlAfterWrite old (pat p)) ≠ some .start := by
  rw [Ne, outstandingPhase_eq_some]
  simp [hp]

theorem outstandingPhase_ctrlCompleted (c : Byte) : outstandingPhase (ctrlCompleted c) = none :=
  outstandingPhase_of_flag (intOf_ctrlCompleted c)

/-- A reset makes no START outstanding (`70_reset_and_hazards.md` R231). -/
theorem State.outstandingPhase_takeReset {u : ResetLeaves} {p : Phase}
    (h : outstandingPhase (s.takeReset u).bcCtrl = some p) : outstandingPhase s.bcCtrl = some p := by
  cases hu : u.bc with
  | none => rwa [State.takeReset_bcCtrl s hu] at h
  | some r => simp [State.takeReset, hu] at h

/-- The tie is kept by a step that accepts nothing, when whatever makes an END owed after it did so before. -/
theorem State.heldIsOwed_of_silent {es : List Event} (h : s.heldIsOwed) (hb : t.bench = s.bench)
    (hh : t.hist = s.hist ++ es) (he : ∀ owed, es.foldl Event.owesAfter owed = owed) (hw : t.Owing → s.Owing) :
    t.heldIsOwed := by
  obtain ⟨hq, hs⟩ := h
  refine ⟨by rwa [State.benchQuiet, hb], fun ht => ?_⟩
  rw [State.owesEnd_of_silent hh he]
  exact hs (hw ht)

end

/-- An accept keeps the tie: a BEGIN makes the END owed, WRITE and READ request no START, END releases the bus. -/
theorem State.heldIsOwed_accepted {s : State} (h : s.heldIsOwed) {i : Instr} (hi : i.isHostCommand = true) :
    (s.accepted i).heldIsOwed := by
  obtain ⟨hq, hs⟩ := h
  obtain ⟨-, -, hbench⟩ := s.accepted_frame hi
  refine ⟨by rwa [State.benchQuiet, hbench], fun hw => ?_⟩
  rw [State.accepted_owesEnd s hi]
  obtain ⟨id, sub, dir, rfl⟩ | ⟨v, rfl⟩ | ⟨a, rfl⟩ | rfl := hostCommand_cases hi
  · rfl
  · rw [State.accepted, State.acceptWrite_eq] at hw
    obtain hheld | hbegin | hstart := hw
    · exact hs (.inl hheld)
    · cases hbegin
    · exact absurd hstart (outstandingPhase_ne_start (p := .dataNoack) nofun _)
  · rw [State.accepted, State.acceptRead_eq] at hw
    obtain hheld | hbegin | hstart := hw
    · exact hs (.inl hheld)
    · cases hbegin
    · exact absurd hstart (outstandingPhase_ne_start (p := readPhase a) (by cases a <;> nofun) _)
  · rw [State.accepted, State.acceptEnd_eq] at hw
    obtain hheld | hbegin | hstart := hw
    · cases hheld
    · cases hbegin
    · exact absurd hstart (outstandingPhase_ne_start (p := .stop) nofun _)

/-- Every step keeps the tie between the ghost bit and the END owed. -/
theorem heldIsOwed_advance {strict : Bool} {s t : State} (h : advance strict s = .next t) (hs : s.heldIsOwed) :
    t.heldIsOwed := by
  have hquiet : s.benchQuiet = true := hs.1
  cases advance_effect h with
  | reset u hr =>
    obtain ⟨-, howes⟩ := hs
    refine ⟨rfl, fun hw => ?_⟩
    rw [State.takeReset_owesEnd]
    obtain hheld | hbegin | hstart := hw
    · cases hheld
    · cases hbegin
    · exact howes (.inr (.inr (State.outstandingPhase_takeReset hstart)))
  | bus p x rest =>
    refine State.heldIsOwed_of_silent hs rfl rfl (fun _ => rfl) (Or.imp_right (Or.imp_right fun hstart => ?_))
    simp [outstandingPhase_ctrlCompleted] at hstart
  | late p x rest hr hi hd hh hf hl hp ha =>
    refine State.heldIsOwed_of_silent hs rfl rfl (fun _ => rfl) ?_
    rintro (hheld | hbegin | hstart)
    · by_cases hst : p = .start
      · exact .inr (.inr ((outstandingPhase_eq_some _ _).2 ⟨hf, hst ▸ hl, nofun⟩))
      · exact .inl (by simpa [hst] using hheld)
    · exact .inr (.inl hbegin)
    · simp [outstandingPhase_ctrlCompleted] at hstart
  | retry hr hf hq =>
    have hbegin : s.inBegin = true := by rcases hq with ⟨hq, -⟩ | ⟨hq, -⟩ <;> simp [State.inBegin, hq]
    exact State.heldIsOwed_of_silent hs rfl rfl (fun _ => rfl) fun _ => .inr (.inl hbegin)
  | issue hr hf hq =>
    have hbegin : s.inBegin = true := by simp [State.inBegin, hq]
    exact State.heldIsOwed_of_silent hs rfl rfl (fun _ => rfl) fun _ => .inr (.inl hbegin)
  | fail | ok | readOk | illegal =>
    exact State.heldIsOwed_of_silent hs rfl rfl (fun _ => rfl)
      (Or.imp_right (Or.imp_left fun hbegin => absurd hbegin (State.inBegin_of_idle rfl)))
  | benchReturn b hr hi hb => simp [State.benchQuiet, hb] at hquiet
  | benchWait p c hr hi hb => simp [State.benchQuiet, hb] at hquiet
  | benchStop hr hi hb => simp [State.benchQuiet, hb] at hquiet
  | accept w rest i t _ _ _ _ _ _ hi ht =>
    subst ht
    exact State.heldIsOwed_accepted (s := { s with hostCmds := rest }) hs hi

/-- A run that ends having met the duty owes no END: no move was left to discharge one. -/
theorem State.owesEnd_of_runOver {s : State} (h : s.runOver) (hd : s.meetsDuty = true) : s.owesEnd = false := by
  obtain ⟨hc, -⟩ := h
  cases hr : s.resetIn with
  | none => simpa [State.meetsDuty, State.moves_of_no_reset hr, hc] using hd
  | some u =>
    rw [State.meetsDuty_of_reset hr, Bool.and_eq_true, Bool.not_eq_true'] at hd
    exact hd.1

/-- With the tie to the ghost bit the bus is then not held. -/
theorem State.leavesBusReleased_of {s : State} (ho : s.owesEnd = false) (h : s.heldIsOwed) : s.leavesBusReleased := by
  obtain ⟨-, hs⟩ := h
  refine fun _ => ⟨?_, ho⟩
  rw [← Bool.not_eq_true]
  intro hheld
  exact Bool.false_ne_true (ho.symm.trans (hs (.inl hheld)))

/-- The four expansions pair every BEGIN with an END, one per episode, and END comes last (`43_driver_sequences.md`
R171 to R174, R178). -/
theorem Driver.commands_close (d : Driver) :
    closesEpisodes false d.commands = true ∧ endsOncePerEpisode false d.commands = true
      ∧ d.commands.getLast? = some .endTransaction := by
  cases d with
  | expWrite | expRead | tsStart | tsRead => exact ⟨rfl, rfl, rfl⟩

/-- Settles O58, clause by clause: the expansions, programs, steps, the end of a run, and a reset inside an episode. -/
theorem driversCloseEpisodes : Obligations.DriversCloseEpisodes := by
  unfold Obligations.DriversCloseEpisodes
  refine ⟨fun d => ?_, pairsStartStop_iff, fun _ _ _ h => ⟨meetsDuty_advance h, heldIsOwed_advance h⟩,
    fun s h hd => ?_, fun strict s u hr ho => ⟨?_, s.takeReset u, advance_reset hr, rfl, ho, fun hc hrel => ?_⟩⟩
  · obtain ⟨hclose, honce, hlast⟩ := d.commands_close
    exact ⟨hclose, honce, hlast, d.legalProgram_words⟩
  · have ho := State.owesEnd_of_runOver h hd
    exact ⟨ho, State.leavesBusReleased_of ho⟩
  · rw [State.meetsDuty_of_reset hr, ho]
    rfl
  · obtain ⟨-, hn⟩ := hrel ⟨hc, rfl⟩
    exact Bool.false_ne_true (hn.symm.trans ho)

end Sys2Proof.Machine
end

section
/-! Proofs of the family `43_driver_sequences.md`: the words of the expansions, their result and the byte they return
(O57, O59). -/

namespace Sys2Proof.Machine

/-- The word of a WRITE is its opcode plus the byte: they share no bit, so the sum is the disjunction, which is how the
fields are appended (`30_encoding.md` R87, R98). -/
theorem writeWord_eq_add (v : Byte) : writeWord v = 0x20000#19 + v.setWidth 19 := by
  have hdisjoint : 0x20000#19 &&& v.setWidth 19 = 0#19 := by
    apply BitVec.eq_of_getLsbD_eq
    intro k hk
    simp only [BitVec.getLsbD_and, BitVec.getLsbD_setWidth]
    interval_cases k <;> simp
  rw [BitVec.add_eq_or_of_and_eq_zero _ _ hdisjoint]
  rfl

/-- Settles O57: the operands stand in the words of WRITE, and every other word is a constant. -/
theorem driverWords : Obligations.DriverWords := by
  unfold Obligations.DriverWords
  refine ⟨fun reg val => ⟨?_, ?_⟩, rfl, rfl⟩
  · rw [← writeWord_eq_add, ← writeWord_eq_add]
    rfl
  · rw [← writeWord_eq_add]
    rfl

/-! The result and the returned byte of a pseudo-instruction (`43_driver_sequences.md` R172, R174, R175). -/

theorem Driver.ok_iff {d : Driver} {rs : List Response} :
    d.ok rs = true ↔ rs.length = d.commands.length ∧ ∀ r ∈ rs, r.result = 0x00#8 := by
  simp [Driver.ok, Config.resultOk]

theorem Driver.value_of_not_ok {d : Driver} {rs : List Response} (h : d.ok rs = false) : d.value rs = none := by
  simp [Driver.value, h]

/-- A pseudo-instruction without a READ returns nothing, whatever the responses. -/
theorem Driver.value_of_no_readPlace {d : Driver} (hp : d.readPlace = none) (rs : List Response) :
    d.value rs = none := by
  simp [Driver.value, hp]

/-- When every command succeeded the value is the RDATA of the response to the READ. -/
theorem Driver.value_of_ok {d : Driver} {rs : List Response} {k : Nat} {r : Response} (hp : d.readPlace = some k)
    (hr : rs[k]? = some r) (h : d.ok rs = true) : d.value rs = some r.rdata := by
  simp [Driver.value, h, hp, hr]

/-- A returned byte is one `ok` allows. -/
theorem Driver.ok_of_value {d : Driver} {rs : List Response} {b : Byte} (h : d.value rs = some b) : d.ok rs = true := by
  rw [← Bool.not_eq_false]
  intro hok
  cases (Driver.value_of_not_ok hok).symm.trans h

/-! When a host may use RDATA (`70_reset_and_hazards.md` R242). -/

theorem preparesRead_iff (k : CmdKind) : preparesRead k = true ↔ k = .beginCmd ∨ k = .writeCmd := by
  cases k <;> decide

theorem usableData_eq_some_iff (before : List Response) (r : Response) (b : Byte) :
    usableData before r = some b ↔ r.kind = .readCmd ∧ r.result = 0x00#8 ∧ r.rdata = b
      ∧ ∀ q ∈ before, q.kind = .beginCmd ∨ q.kind = .writeCmd → q.result = 0x00#8 := by
  simp only [← preparesRead_iff]
  constructor
  · exact usableData_eq_some
  · rintro ⟨hkind, hresult, rfl, hbefore⟩
    exact if_pos ⟨hkind, hresult, hbefore⟩

/-- The byte a pseudo-instruction returns is usable after the responses before its READ: `ok` covers them all. -/
theorem usableData_of_value {d : Driver} {rs : List Response} {k : Nat} {r : Response} {b : Byte}
    (hp : d.readPlace = some k) (hr : rs[k]? = some r) (hkind : r.kind = .readCmd) (h : d.value rs = some b) :
    usableData (rs.take k) r = some b := by
  have hok := Driver.ok_of_value h
  obtain ⟨-, hall⟩ := Driver.ok_iff.1 hok
  have hb : r.rdata = b := Option.some.inj ((Driver.value_of_ok hp hr hok).symm.trans h)
  exact (usableData_eq_some_iff ..).2
    ⟨hkind, hall r (List.mem_of_getElem? hr), hb, fun q hq _ => hall q (List.mem_of_mem_take hq)⟩

/-- Settles O59, clause by clause: `ok` and the value, the place of the READ, and the usable byte. -/
theorem driverResult : Obligations.DriverResult := by
  unfold Obligations.DriverResult
  refine ⟨fun d rs hlen => ⟨?_, Driver.value_of_not_ok⟩, fun reg r1 r2 r3 r4 r5 r6 => ?_, fun r1 r2 r3 r4 r5 => ?_,
    fun _ => rfl, rfl, fun reg val rs => ⟨?_, ?_⟩, usableData_eq_some_iff, fun reg r1 r2 r3 r4 r5 r6 b => ?_,
    fun r1 r2 r3 r4 r5 b => ?_⟩
  · rw [Driver.ok_iff, and_iff_right hlen]
  · exact Driver.value_of_ok rfl rfl
  · exact Driver.value_of_ok rfl rfl
  · exact Driver.value_of_no_readPlace rfl rs
  · exact Driver.value_of_no_readPlace rfl rs
  · exact usableData_of_value (d := .expRead reg) (rs := [r1, r2, r3, r4, r5, r6]) rfl rfl
  · exact usableData_of_value (d := .tsRead) (rs := [r1, r2, r3, r4, r5]) rfl rfl

end Sys2Proof.Machine
end

section
/-! Proofs of the family `44_master_fsm.md`: a command accepted or held, and the end of a run (O20, O31, O32, O33). -/

namespace Sys2Proof.Machine

/-- A host command presented to a busy CORE is held as its word (`44_master_fsm.md` R192). -/
theorem exec_busy {i : Instr} {w : CmdWord} {s : State} (hs : s.seq ≠ .idle) (hw : encode i = .cmd w) :
    exec i s = .next (s.holdCommand w) := by
  cases i with
  | beginTransaction | writeByte | readByte | endTransaction =>
    cases hw
    exact acceptWhenIdle_busy _ _ hs
  | phStart | phDataNoack | phDataAck | phStop => cases hw

/-- Settles O20. -/
theorem commandHeldWhileBusy : Obligations.CommandHeldWhileBusy := by
  unfold Obligations.CommandHeldWhileBusy
  exact fun _ _ _ hs hw => exec_busy hs hw

theorem State.bench_of_benchQuiet {s : State} (h : s.benchQuiet = true) : s.bench = .idle := by
  unfold State.benchQuiet at h
  cases hb : s.bench with
  | idle => rfl
  | presented c => simp [hb] at h
  | holding => simp [hb] at h

/-- A ready CORE takes the host's next command (`44_master_fsm.md` R192). -/
theorem advance_ready {strict : Bool} {s : State} (h : s.ready) : advance strict s = acceptNext s := by
  obtain ⟨hs, hr, hb, hl⟩ := h
  simp only [advance, hr, hs, idleStep, State.lateComplete_eq_none hl, State.bench_of_benchQuiet hb]

/-- While a command is in progress every step is one of a waiting state (`44_master_fsm.md` R192). -/
theorem advance_busy {strict : Bool} {s : State} (hr : s.resetIn = none) (hs : s.seq ≠ .idle) :
    ∃ u, advance strict s = waitStep s u := by
  cases hq : s.seq with
  | idle => exact absurd hq hs
  | bStart => exact ⟨s.completeStart, by simp only [advance, hr, hq]⟩
  | bAddr => exact ⟨s.completeAddress strict, by simp only [advance, hr, hq]⟩
  | wData => exact ⟨s.completeWrite, by simp only [advance, hr, hq]⟩
  | rData => exact ⟨s.completeRead, by simp only [advance, hr, hq]⟩

theorem acceptNext_of_ok {s : State} {w : CmdWord} {rest : List CmdWord} {i : Instr} (hc : s.hostCmds = w :: rest)
    (hd : decodeCmd w = .ok i) : acceptNext s = exec i { s with hostCmds := rest } := by
  simp only [acceptNext, hc, hd]

/-- An idle CORE stops for want of a command only: a word it finds is accepted, legal or not
(`44_master_fsm.md` R197). -/
theorem acceptNext_eq_noCommand {s : State} (hs : s.seq = .idle) :
    acceptNext s = .fault .noCommand ↔ s.hostCmds = [] := by
  cases hc : s.hostCmds with
  | nil => simp [acceptNext, hc]
  | cons w rest =>
    cases hd : decodeCmd w with
    | ok i => simp [acceptNext_of_ok hc hd, exec_idle i (s := { s with hostCmds := rest }) hs]
    | error e => simp [acceptNext, hc, hd]

/-- A waiting CORE may hang, but its run is not over (`44_master_fsm.md` R197, `60_exceptions.md` R212). -/
theorem waitStep_ne_noCommand (s u : State) : waitStep s u ≠ .fault .noCommand := by
  unfold waitStep busStep
  cases s.intFlag <;> cases s.busComplete <;> simp

/-- Settles O31: an idle CORE looks at the host's list, a busy one waits. -/
theorem endOfRun : Obligations.EndOfRun := by
  unfold Obligations.EndOfRun
  intro strict s hr hb hl
  by_cases hs : s.seq = .idle
  · rw [advance_ready ⟨hs, hr, hb, hl⟩, acceptNext_eq_noCommand hs]
    exact (and_iff_left hs).symm
  · obtain ⟨u, hu⟩ := advance_busy (strict := strict) hr hs
    rw [hu]
    exact iff_of_false (waitStep_ne_noCommand s u) fun ⟨_, hidle⟩ => hs hidle

/-- Settles O32. -/
theorem stepRunsDecodedCommand : Obligations.StepRunsDecodedCommand := by
  unfold Obligations.StepRunsDecodedCommand
  intro s w rest i h hc hd
  rw [step, advance_ready h, acceptNext_of_ok hc hd]

/-! Where `withFetchWord` places a word (log 19), by its format (log 28). -/

theorem State.withFetchWord_phase (s : State) {nbits : Nat} (w : Nat) (hn : nbits ≤ 8) :
    s.withFetchWord nbits w =
      { s with seq := .idle, resetIn := none, lateAt := none, bench := .presented (BitVec.ofNat 2 w) } := if_pos hn

theorem State.withFetchWord_cmd (s : State) {nbits : Nat} (w : Nat) (hn : ¬nbits ≤ 8) :
    s.withFetchWord nbits w =
      { s with
        seq := .idle
        resetIn := none
        lateAt := none
        bench := .idle
        hostCmds := BitVec.ofNat 19 w :: s.hostCmds } := if_neg hn

theorem decodeTableWord_phase {nbits w : Nat} {i : Instr} (hn : nbits ≤ 8) (h : decodeTableWord nbits w = some i) :
    i = decodePhase (BitVec.ofNat 2 w) := by
  rw [decodeTableWord, if_pos hn] at h
  exact (Option.some.inj (Option.ite_none_right_eq_some.1 h).2).symm

theorem decodeTableWord_cmd {nbits w : Nat} {i : Instr} (hn : ¬nbits ≤ 8) (h : decodeTableWord nbits w = some i) :
    decodeCmd (BitVec.ofNat 19 w) = .ok i := by
  rw [decodeTableWord, if_neg hn] at h
  have ho : (decodeCmd (BitVec.ofNat 19 w)).toOption = some i := (Option.ite_none_right_eq_some.1 h).2
  cases hd : decodeCmd (BitVec.ofNat 19 w) with
  | ok j => rw [hd] at ho; exact congrArg Except.ok (Option.some.inj ho)
  | error e => rw [hd] at ho; cases ho

theorem State.lateDue_of_lateAt_none {s : State} (h : s.lateAt = none) : s.lateDue = false := by
  simp only [State.lateDue, h]

/-- Settles O33: a phase code is placed as a direct call, a command word as the next one of a ready CORE. -/
theorem placedInstructionRunsNext : Obligations.PlacedInstructionRunsNext := by
  unfold Obligations.PlacedInstructionRunsNext
  intro s nbits w i h
  by_cases hn : nbits ≤ 8
  · rw [decodeTableWord_phase hn h, s.withFetchWord_phase w hn, step,
      advance_benchCall rfl rfl (State.lateDue_of_lateAt_none rfl) rfl, exec_idle _ rfl]
  · rw [s.withFetchWord_cmd w hn]
    exact stepRunsDecodedCommand _ _ _ i ⟨rfl, rfl, rfl, State.lateDue_of_lateAt_none rfl⟩ rfl
      (decodeTableWord_cmd hn h)

end Sys2Proof.Machine
end

section
/-! Proofs of the family `44_master_fsm.md`: no waiting state is stuck, and the rows of the transition table (O39,
O40). -/

namespace Sys2Proof.Machine

/-- While a command is in progress BC.CTRL holds the pattern of a phase that is waited for (`44_master_fsm.md` R195). -/
theorem State.Inv.lastPhase_of_busy {s : State} (h : s.Inv) (hs : s.seq ≠ .idle) :
    ∃ p, lastPhase s.bcCtrl = some p ∧ p ≠ .stop := by
  obtain ⟨-, -, hstart, haddr, hwrite, hread, -⟩ := h
  cases hq : s.seq with
  | idle => exact absurd hq hs
  | bStart => exact ⟨_, hstart hq, nofun⟩
  | bAddr => exact ⟨_, (haddr hq).1, nofun⟩
  | wData => exact ⟨_, hwrite hq, nofun⟩
  | rData => exact ⟨_, hread hq, readPhase_ne_stop s.ackreq⟩

/-- Settles O39: with INT set the CORE completes the phase, and otherwise the bus controller does with its answer. -/
theorem waitingStatesProgress : Obligations.WaitingStatesProgress := by
  unfold Obligations.WaitingStatesProgress
  intro strict s h hr hs ha
  cases hf : s.intFlag with
  | true =>
    obtain ⟨u, hu⟩ := advance_busy (strict := strict) hr hs
    exact ⟨u, by rw [hu, waitStep, if_pos hf]⟩
  | false =>
    obtain ⟨p, hl, hp⟩ := h.lastPhase_of_busy hs
    obtain ⟨x, rest, hx⟩ := List.exists_cons_of_ne_nil (ha hf)
    exact ⟨_, (advance_bus hr hs hf).trans (busStep_eq_next.2 (State.busComplete_eq hf hl hp hx))⟩

/-- The values the rows of the transition table lead to from each value of the sequencer, itself among them
(`44_master_fsm.md` R193). -/
def Seq.successors : Seq → List Seq
  | .idle => [.idle, .bStart, .wData, .rData]
  | .bStart => [.bStart, .bAddr, .idle]
  | .bAddr => [.bAddr, .bStart, .idle]
  | .wData => [.wData, .idle]
  | .rData => [.rData, .idle]

theorem Seq.self_mem_successors (q : Seq) : q ∈ q.successors := by cases q <;> decide

/-- Every command can end (`44_master_fsm.md` R193). -/
theorem Seq.idle_mem_successors (q : Seq) : .idle ∈ q.successors := by cases q <;> decide

/-- An accepted command goes to its own waiting state, or for END nowhere (`44_master_fsm.md` rows T1 to T4). -/
theorem State.accepted_seq_mem {s : State} (hs : s.seq = .idle) {i : Instr} (hi : i.isHostCommand = true) :
    (s.accepted i).seq ∈ s.seq.successors := by
  rw [hs]
  obtain ⟨id, sub, dir, rfl⟩ | ⟨v, rfl⟩ | ⟨a, rfl⟩ | rfl := hostCommand_cases hi
  · rw [State.accepted, State.acceptBegin_eq]
    simp [Seq.successors]
  · rw [State.accepted, State.acceptWrite_eq]
    simp [Seq.successors]
  · rw [State.accepted, State.acceptRead_eq]
    simp [Seq.successors]
  · rw [State.accepted, State.acceptEnd_eq]
    simp [Seq.successors]

/-- Every change of the sequencer is a row of the table (`44_master_fsm.md` R193). -/
theorem advance_seq_mem {strict : Bool} {s t : State} (hr : s.resetIn = none) (h : advance strict s = .next t) :
    t.seq ∈ s.seq.successors := by
  cases advance_effect h with
  | reset u hu => simp [hr] at hu
  | bus | late | benchReturn | benchWait | benchStop => exact s.seq.self_mem_successors
  | fail | ok | readOk | illegal => exact s.seq.idle_mem_successors
  | retry _ _ hs => obtain ⟨hs, -⟩ | ⟨hs, -⟩ := hs <;> simp [hs, Seq.successors]
  | issue _ _ hs => simp [hs, Seq.successors]
  | accept w rest i t _ hs _ _ _ _ hi ht =>
    subst ht
    exact State.accepted_seq_mem (s := { s with hostCmds := rest }) hs hi

/-- While a phase is outstanding the sequencer stands (`44_master_fsm.md` R187). -/
theorem advance_seq_of_waiting {strict : Bool} {s t : State} (hr : s.resetIn = none) (hw : s.waiting)
    (h : advance strict s = .next t) : t.seq = s.seq := by
  obtain ⟨hs, hf⟩ := hw
  rw [advance_bus hr hs hf, busStep_eq_next] at h
  obtain ⟨_, _, _, _, _, rfl⟩ := State.busComplete_eq_some.1 h
  rfl

/-- Settles O40, a value of the sequencer at a time. -/
theorem sequencerTransitions : Obligations.SequencerTransitions := by
  unfold Obligations.SequencerTransitions
  intro strict s t hr h
  have hmem : t.seq ∈ s.seq.successors := advance_seq_mem hr h
  refine ⟨fun hs => ?_, fun hs => ?_, fun hs => ?_, fun hs => ?_, fun hs => ?_,
    fun hs hf => advance_seq_of_waiting hr ⟨hs, hf⟩ h⟩ <;> simpa [hs, Seq.successors] using hmem

end Sys2Proof.Machine
end

section
/-! Proofs of the family `60_exceptions.md`: a failure ends the command that fails and no other (O46). -/

namespace Sys2Proof.Machine

/-- The states that a step recording the failure `c` leaves: the command in progress fails as its phase completes, or an
idle machine refuses the host's next word (`60_exceptions.md` R201, R205). -/
inductive State.FailsTo (s : State) (c : Cause) : State → Prop
  | inProgress (k : CmdKind) (hs : s.seq ≠ .idle) (hc : c ≠ .illegal) : s.FailsTo c (s.takeStatus.raiseFail k c)
  | refused (w : CmdWord) (rest : List CmdWord) (hs : s.seq = .idle) (hc : c = .illegal)
      (hw : legalWord w = false) (hcmds : s.hostCmds = w :: rest) :
      s.FailsTo c ({ s with hostCmds := rest }.acceptIllegal w)

/-- A step that records a failure: of the effects of a step only a failed phase and an illegal word list one. -/
theorem advance_failsTo {strict : Bool} {s t : State} {c : Cause} (hr : s.resetIn = none)
    (h : advance strict s = .next t) (hfail : s.Records t (.fail c)) : s.FailsTo c t := by
  cases advance_effect h with
  | reset u hu => simp [hr] at hu
  | benchReturn => exact absurd (hfail.mem (List.append_nil _).symm) (by simp)
  | bus | late | retry | issue | ok | readOk | benchWait | benchStop => exact absurd (hfail.mem rfl) (by simp)
  | fail k c' _ _ hk =>
    have hc : c = c' := by simpa using hfail.mem rfl
    subst hc
    obtain ⟨hbusy, hlegal⟩ : s.seq ≠ .idle ∧ c ≠ .illegal := by
      obtain ⟨hs, -, rfl | ⟨rfl, -⟩⟩ | ⟨hs, -, rfl | ⟨rfl, -⟩⟩ | ⟨hs, -, rfl⟩ | ⟨hs, -, rfl⟩ := hk <;> simp [hs]
    simpa only [State.raiseFail_eq, State.takeStatus_eq] using State.FailsTo.inProgress k hbusy hlegal
  | accept w rest i t _ _ _ _ _ _ hi ht =>
    subst ht
    exact absurd hfail (State.Records.not_fail_accepted (s := { s with hostCmds := rest }) hi c)
  | illegal w rest e _ hs _ _ hcmds hd =>
    have hc : c = .illegal := by simpa using hfail.mem rfl
    have hw : legalWord w = false := (decodeCmd_error_iff w).1 ⟨e, hd⟩
    simpa only [State.acceptIllegal_eq] using State.FailsTo.refused w rest hs hc hw hcmds

/-- Settles O46: each of the two failing steps raises the one exception, which writes RESULT and the sequencer only. -/
theorem failureIsPrecise : Obligations.FailureIsPrecise := by
  unfold Obligations.FailureIsPrecise
  intro strict s t c new hr h hhist hmem
  cases advance_failsTo hr h ⟨new, hhist, hmem⟩ with
  | inProgress k hs hc =>
    have hnew : new = [.fail c, .rsp k 0xFF#8 s.rdata] :=
      List.append_cancel_left (hhist.symm.trans (State.raiseFail_hist s.takeStatus k c))
    subst hnew
    exact ⟨rfl, rfl, rfl, rfl, rfl, rfl, rfl, rfl, rfl, rfl, rfl, rfl, rfl, rfl, hr, .inl ⟨hs, hc, rfl⟩, ⟨k, rfl⟩, rfl⟩
  | refused w rest hs hc hw hcmds =>
    rw [State.acceptIllegal_eq] at hhist ⊢
    have hnew : [.accIllegal w, .fail .illegal, .rsp .illegalCmd 0xFF#8 s.rdata] = new :=
      List.append_cancel_left hhist
    subst hnew
    exact ⟨rfl, rfl, rfl, rfl, rfl, rfl, rfl, rfl, rfl, rfl, rfl, rfl, rfl, rfl, hr, .inr ⟨hs, hc, w, hw, hcmds⟩,
      ⟨.illegalCmd, rfl⟩, rfl⟩

end Sys2Proof.Machine
end
